-- ==== Sys2Proof/Word.lean ====
section
/-!
DEFINITION. The word widths of the block (00_scope.md rule R5): plain bit vectors, one name for each use.
-/

namespace Sys2Proof

/-- A page number: 8 bits (R5). -/
abbrev Page := BitVec 8

/-- A logical register number inside a page: 8 bits (R5; glossary, "register (logical)"). -/
abbrev LReg := BitVec 8

/-- A word of the management bus: 16 bits (R5). -/
abbrev BusWord := BitVec 16

/-- A command word CMD32 (30_encoding.md rule R101). -/
abbrev CmdWord := BitVec 32

/-- The container of a write's value and of a read's result (10_state.md rules R30, R31). -/
abbrev Value := BitVec 64

end Sys2Proof
end

