-- ==== Sys2Proof/Config.lean ====
section
/-!
DEFINITION. What an implementation fixes (00_scope.md section 3): the source's literals as named constants, the open bus
register numbers with their constraints, the error payload type, and the free values the spec leaves open.
-/

namespace Sys2Proof

namespace Config

/-- PSEUDO_ADDR, the bus device address of every transaction (R6). PRESUMED: the 5-bit field width is general knowledge
in the spec itself (log entry 21, safe). -/
def pseudoAddr : BitVec 5 := 0x1E#5

/-- PAGE_ENABLE, the enable bit of the page-select word (R7). -/
def pageEnable : BusWord := 0x0001#16

/-- OP_READ (R7). -/
def opRead : BusWord := 0x0002#16

/-- OP_WRITE (R7). -/
def opWrite : BusWord := 0x0001#16

/-- PENDING_MASK = OP_READ | OP_WRITE, the bits the completion test examines (R7). -/
def pendingMask : BusWord := opRead ||| opWrite

/-- POLL_MAX, the largest number of completion polls of one access (R8). -/
def pollMax : Nat := 5

/-- The largest number of rows of R150 one access can take: four slots, the page select (or its hit row), the trigger and
five polls (R152). -/
def maxRows : Nat := 11

end Config

/-- How many values ERR_T has, less one (R11): open, so a constant with no body. -/
opaque Config.errCount : Nat

/-- ERR_T, the type of a failed transaction's error value (R11): open. It has at least one value and no claim can tell whether
it has another, so nothing about an error rests on which type it is. DESIGN CHOICE for the form (log entry 1, safe). -/
structure ErrT where
  value : Fin (Config.errCount + 1)
  deriving DecidableEq, Repr, Inhabited

/-- The one value of ERR_T that can be named. -/
def ErrT.zero : ErrT := ⟨⟨0, Nat.succ_pos _⟩⟩

/-- The supported logical widths N (R5, WIDTHS). -/
inductive Width where
  | w8 | w16 | w32 | w48 | w64
  deriving DecidableEq, Repr

/-- N in bits. -/
def Width.bits : Width → Nat
  | .w8 => 8
  | .w16 => 16
  | .w32 => 32
  | .w48 => 48
  | .w64 => 64

/-- The slot count ceil(N/16) of R100's table. -/
def Width.nslots : Width → Nat
  | .w8 => 1
  | .w16 => 1
  | .w32 => 2
  | .w48 => 3
  | .w64 => 4

/-- The six bus registers the IRMC touches, by role (20_memory.md rule R63; trace names of R17). The slot index is as wide as
SLOT_IDX; the block addresses slots 0 to 3 only. -/
inductive BusReg where
  | page
  | addr
  | data (i : BitVec 3)
  deriving DecidableEq, Repr

/-- The three OPEN bus register numbers (R10), an argument of whatever looks at the wires. -/
structure BusNumbers where
  regPage  : BitVec 5
  regAddr  : BitVec 5
  regData0 : BitVec 5
  deriving DecidableEq, Repr

/-- The bus register number of a role: REG_PAGE, REG_ADDR, or REG_DATA(i) = REG_DATA0 + i (R10). -/
def BusReg.number (c : BusNumbers) : BusReg → BitVec 5
  | .page => c.regPage
  | .addr => c.regAddr
  | .data i => c.regData0 + i.setWidth 5

namespace Config

/-- SLEEP_AFTER_LAST_POLL (R148, U6): open, so a constant with no body. -/
opaque sleepAfterLastPoll : Bool

/-- What RDATA holds where R31 leaves it unspecified: a free value, one for each draw (U4; log entry 5). -/
opaque freeRdata : Nat → Value

/-- What ERR_INFO holds where R33 leaves it unspecified: a free value, one for each draw (log entry 5). -/
opaque freeErrInfo : Nat → ErrT

/-- What L_WDATA holds after a read was accepted, where R30 leaves it unspecified: a free value (log entry 5). -/
opaque freeWdata : Nat → Value

/-- What the five command latches hold after `rst`, where R48 leaves them unspecified: the fields of a free command word
(U16; log entry 4). -/
opaque freeLatches : Nat → CmdWord

end Config

end Sys2Proof
end

