-- ==== Sys2Proof/Syntax.lean ====
section
/-!
DEFINITION. The instructions: one constructor per row of spec/opcode_table.json. The ten host commands of 30_encoding.md rule
R100, and the three bus words of rules R110 to R112 that the sequencer itself writes (R119: no host commands). A write's value
is no operand of the word: it is the `cmd_wdata` port (R101), held in State.
-/

namespace Sys2Proof

/-- One row of the opcode table each. -/
inductive Instr where
  /-- read8(page, reg), R163. -/
  | read8 (page : Page) (reg : LReg)
  /-- read16(page, reg), R164. -/
  | read16 (page : Page) (reg : LReg)
  /-- read32(page, reg), R165. -/
  | read32 (page : Page) (reg : LReg)
  /-- read48(page, reg), R166. -/
  | read48 (page : Page) (reg : LReg)
  /-- read64(page, reg), R167. -/
  | read64 (page : Page) (reg : LReg)
  /-- write8(page, reg, cmd_wdata), R183. -/
  | write8 (page : Page) (reg : LReg)
  /-- write16(page, reg, cmd_wdata), R184. -/
  | write16 (page : Page) (reg : LReg)
  /-- write32(page, reg, cmd_wdata), R185. -/
  | write32 (page : Page) (reg : LReg)
  /-- write48(page, reg, cmd_wdata), R186. -/
  | write48 (page : Page) (reg : LReg)
  /-- write64(page, reg, cmd_wdata), R187. -/
  | write64 (page : Page) (reg : LReg)
  /-- The page-select word for a page, written to REG_PAGE (R110). -/
  | busPageSelect (page : Page)
  /-- The address/opcode word of a read, written to REG_ADDR (R111). -/
  | busAddrRead (reg : LReg)
  /-- The address/opcode word of a write, written to REG_ADDR (R112). -/
  | busAddrWrite (reg : LReg)
  deriving DecidableEq, Repr

/-- The read command of a width: readN of R117. -/
def Width.read : Width → Page → LReg → Instr
  | .w8 => .read8
  | .w16 => .read16
  | .w32 => .read32
  | .w48 => .read48
  | .w64 => .read64

/-- The write command of a width: writeN of R117. -/
def Width.write : Width → Page → LReg → Instr
  | .w8 => .write8
  | .w16 => .write16
  | .w32 => .write32
  | .w48 => .write48
  | .w64 => .write64

/-- Is it one of the ten host commands (R100)? The other three are words of the bus (R119). -/
def Instr.isCommand : Instr → Bool
  | .read8 _ _ | .read16 _ _ | .read32 _ _ | .read48 _ _ | .read64 _ _ => true
  | .write8 _ _ | .write16 _ _ | .write32 _ _ | .write48 _ _ | .write64 _ _ => true
  | .busPageSelect _ | .busAddrRead _ | .busAddrWrite _ => false

end Sys2Proof
end

