-- ==== Sys2Proof/WellFormed.lean ====
section
/-!
DEFINITION. What is well formed: the fields of a command word (30_encoding.md rules R101 to R106), an instruction, and an
assignment of the open bus register numbers (00_scope.md rule R10).
-/

namespace Sys2Proof

/-- The fields of a CMD32 word (R101), each of the width the format gives it. -/
structure CmdFields where
  zero  : BitVec 12
  dir   : Bool
  byte  : Bool
  nslot : BitVec 2
  page  : Page
  reg   : LReg
  deriving DecidableEq, Repr

/-- A command word is legal when its ZERO field is 0 and the 8-bit width comes with slot count one (R104, R106). -/
def CmdFields.legal (f : CmdFields) : Bool :=
  f.zero == 0#12 && !(f.byte && f.nslot != 0#2)

/-- The CMD32 fields of a command by the opcode map R103; none for the three bus words. -/
def Instr.fields? : Instr → Option CmdFields
  | .read8 p r => some ⟨0, false, true, 0, p, r⟩
  | .read16 p r => some ⟨0, false, false, 0, p, r⟩
  | .read32 p r => some ⟨0, false, false, 1, p, r⟩
  | .read48 p r => some ⟨0, false, false, 2, p, r⟩
  | .read64 p r => some ⟨0, false, false, 3, p, r⟩
  | .write8 p r => some ⟨0, true, true, 0, p, r⟩
  | .write16 p r => some ⟨0, true, false, 0, p, r⟩
  | .write32 p r => some ⟨0, true, false, 1, p, r⟩
  | .write48 p r => some ⟨0, true, false, 2, p, r⟩
  | .write64 p r => some ⟨0, true, false, 3, p, r⟩
  | .busPageSelect _ => none
  | .busAddrRead _ => none
  | .busAddrWrite _ => none

/-- An instruction is well formed when the fields it is encoded with are legal. Every term of Instr is: operands are bit
vectors of their field's width and R73 puts no check on them. -/
def Instr.wf (i : Instr) : Bool :=
  match i.fields? with
  | some f => f.legal
  | none => true

/-- The constraints on the open bus register numbers (R10): REG_DATA0 + 3 ≤ 31, and the six numbers pairwise distinct. -/
def BusNumbers.legal (c : BusNumbers) : Bool :=
  c.regData0.toNat + 3 ≤ 31 && c.regPage != c.regAddr
    && !(c.regData0.toNat ≤ c.regPage.toNat && c.regPage.toNat ≤ c.regData0.toNat + 3)
    && !(c.regData0.toNat ≤ c.regAddr.toNat && c.regAddr.toNat ≤ c.regData0.toNat + 3)

end Sys2Proof
end

