-- ==== Sys2Proof/Decode.lean ====
section
/-!
DEFINITION. Decoding and encoding (30_encoding.md). A command arrives as one 32-bit word on the command port (R101), a bus
word as 16 bits for one bus register (R110 to R112): the two formats never meet, and the register tells the two identical
BUS16 patterns apart (95_test_vectors.md, V-B10). The decoder is total and rejects by name.
-/

namespace Sys2Proof

/-- A word to decode: a CMD32 word of the command port, or a BUS16 word together with the bus register it goes to. -/
inductive CodeWord where
  | cmd32 (w : CmdWord)
  | bus16 (r : BusReg) (w : BusWord)
  deriving DecidableEq, Repr

/-- Why a word is no instruction. -/
inductive DecodeError where
  /-- cmd[31:20] ≠ 0 (R106). -/
  | zeroField
  /-- cmd[18] = 1 and cmd[17:16] ≠ 0: OP 5, 6, 7, D, E, F (R106). -/
  | byteWithSlots
  /-- A word for REG_PAGE without the page-select form (R110): the IRMC never writes one (R113). -/
  | notPageSelect
  /-- A word for REG_ADDR without exactly one opcode bit, or with bits [7:2] set (R111, R112): never written (R113). -/
  | notAddrOpcode
  /-- A data-slot word: plain data (R114), no row of the table. -/
  | slotData
  deriving DecidableEq, Repr

/-- The fields of a command word, by the bit positions of R101. -/
def CmdFields.ofWord (w : CmdWord) : CmdFields where
  zero  := w.extractLsb' 20 12
  dir   := w.getLsbD 19
  byte  := w.getLsbD 18
  nslot := w.extractLsb' 16 2
  page  := w.extractLsb' 8 8
  reg   := w.extractLsb' 0 8

/-- The command that legal fields name (R103): BYTE selects the 8-bit width, else NSLOT gives the slot count minus one. -/
def CmdFields.command (f : CmdFields) : Instr :=
  match f.dir, f.byte, f.nslot.toNat with
  | false, true, _ => .read8 f.page f.reg
  | false, false, 0 => .read16 f.page f.reg
  | false, false, 1 => .read32 f.page f.reg
  | false, false, 2 => .read48 f.page f.reg
  | false, false, _ => .read64 f.page f.reg
  | true, true, _ => .write8 f.page f.reg
  | true, false, 0 => .write16 f.page f.reg
  | true, false, 1 => .write32 f.page f.reg
  | true, false, 2 => .write48 f.page f.reg
  | true, false, _ => .write64 f.page f.reg

/-- Decode a command word: one of the ten commands, or illegal for a named reason (R106). -/
def decodeCommand (w : CmdWord) : Except DecodeError Instr :=
  let f := CmdFields.ofWord w
  if f.zero ≠ 0#12 then .error .zeroField
  else if f.byte = true ∧ f.nslot ≠ 0#2 then .error .byteWithSlots
  else .ok f.command

/-- Decode a word written to a bus register: the three forms of R110 to R112, everything else by name (R113, U7). -/
def decodeBus (r : BusReg) (w : BusWord) : Except DecodeError Instr :=
  match r with
  | .page =>
    if w.extractLsb' 0 8 = 0x01#8 then .ok (.busPageSelect (w.extractLsb' 8 8)) else .error .notPageSelect
  | .addr =>
    if w.extractLsb' 0 8 = 0x02#8 then .ok (.busAddrRead (w.extractLsb' 8 8))
    else if w.extractLsb' 0 8 = 0x01#8 then .ok (.busAddrWrite (w.extractLsb' 8 8))
    else .error .notAddrOpcode
  | .data _ => .error .slotData

/-- The decoder: total on every word of either format. -/
def decode : CodeWord → Except DecodeError Instr
  | .cmd32 w => decodeCommand w
  | .bus16 r w => decodeBus r w

/-- A command's word as the commands' own rules print it: match | page << 8 | reg, with the match column of R103. -/
def commandWord (rowMatch : CmdWord) (page : Page) (reg : LReg) : CmdWord :=
  rowMatch ||| (page.setWidth 32 <<< 8) ||| reg.setWidth 32

/-- A BUS16 word as R110 to R112 print it: operand << 8 | low byte. -/
def tableBusWord (operand : BitVec 8) (low : BusWord) : BusWord :=
  (operand.setWidth 16 <<< 8) ||| low

/-- The word of every instruction: R103 for the commands, R110 to R112 for the bus words. -/
def encode : Instr → CodeWord
  | .read8 p r => .cmd32 (commandWord 0x00040000#32 p r)
  | .read16 p r => .cmd32 (commandWord 0x00000000#32 p r)
  | .read32 p r => .cmd32 (commandWord 0x00010000#32 p r)
  | .read48 p r => .cmd32 (commandWord 0x00020000#32 p r)
  | .read64 p r => .cmd32 (commandWord 0x00030000#32 p r)
  | .write8 p r => .cmd32 (commandWord 0x000C0000#32 p r)
  | .write16 p r => .cmd32 (commandWord 0x00080000#32 p r)
  | .write32 p r => .cmd32 (commandWord 0x00090000#32 p r)
  | .write48 p r => .cmd32 (commandWord 0x000A0000#32 p r)
  | .write64 p r => .cmd32 (commandWord 0x000B0000#32 p r)
  | .busPageSelect p => .bus16 .page (tableBusWord p 0x0001#16)
  | .busAddrRead r => .bus16 .addr (tableBusWord r 0x0002#16)
  | .busAddrWrite r => .bus16 .addr (tableBusWord r 0x0001#16)

/-- The bus register a 16-bit row of the table is asked about: the table gives no register, and 0x01 in the low byte is both
bus.page_select and bus.addr_write. DESIGN CHOICE: such a word is read as bus.page_select, the table's first (log entry 17). -/
def tableBusReg (w : BusWord) : BusReg :=
  if w.extractLsb' 0 8 = 0x02#8 then .addr else .page

/-- What the decoder reads from a word numbered as spec/opcode_table.json numbers it: 16 bits are a BUS16 word, any other
length a CMD32 word. -/
def decodeTableWord (nbits w : Nat) : Option Instr :=
  let code : CodeWord :=
    if nbits = 16 then .bus16 (tableBusReg (BitVec.ofNat 16 w)) (BitVec.ofNat 16 w)
    else .cmd32 (BitVec.ofNat 32 w)
  match decode code with
  | .ok i => some i
  | .error _ => none

end Sys2Proof
end

