-- ==== Sys2Proof/Machine/State.lean ====
section
/-!
DEFINITION. The state of one IRMC instance (10_state.md): the registers of rule R20, the ports whose values the host and the
environment hold (R40 to R47), and the model's own records. Plain data throughout.
-/

namespace Sys2Proof.Machine

/-- PHASE: where the access in flight stands (R26). The encoding is free. -/
inductive Phase where
  | idle | stage | select | addr | poll | drain
  deriving DecidableEq, Repr

/-- STATUS: the result of the last finished command (R32). -/
inductive Status where
  | ok | transport | timeout | illegal
  deriving DecidableEq, Repr

/-- PAGE_CACHE: VALID = 0 is the sentinel, whatever PAGE holds (R21). -/
structure PageCache where
  valid : Bool
  page  : Page
  deriving DecidableEq, Repr

/-- One entry of the bus trace (00_scope.md rule R17), and a mark for each reset, which issues no transaction (R262). -/
inductive BusEvent where
  /-- W(r, v): a BusWrite that returned ok. -/
  | w (r : BusReg) (v : BusWord)
  /-- W(r, v)!e: a BusWrite that returned err(e). -/
  | wErr (r : BusReg) (v : BusWord) (e : ErrT)
  /-- R(r)=v: a BusRead that returned ok(v). -/
  | r (r : BusReg) (v : BusWord)
  /-- R(r)!e: a BusRead that returned err(e). -/
  | rErr (r : BusReg) (e : ErrT)
  /-- `rst` was asserted here. -/
  | rst
  deriving DecidableEq, Repr

/-- The answer to one bus transaction (R45): `bus_rsp_rdata` has no meaning for a write. -/
inductive BusRsp where
  | ok (rdata : BusWord)
  | err (e : ErrT)
  deriving DecidableEq, Repr

/-- What reaches the block next from its environment. -/
inductive EnvEvent where
  /-- The answer to the outstanding request. -/
  | rsp (a : BusRsp)
  /-- The transport has not answered yet (R46). -/
  | silent
  /-- `rst` is asserted (R43). -/
  | rst
  deriving DecidableEq, Repr

/-- The command port's inputs (R40). -/
structure Port where
  valid : Bool
  cmd   : CmdWord
  wdata : Value
  deriving DecidableEq, Repr

/-- One line of the host's program: a command word and the value beside it (R117). -/
structure HostLine where
  cmd   : CmdWord
  wdata : Value
  deriving DecidableEq, Repr

/-- One IRMC instance with what stands at its ports. -/
structure State where
  /-- PAGE_CACHE (R21). -/
  cache   : PageCache
  /-- PHASE (R26). -/
  phase   : Phase
  /-- SLOT_IDX (R27). -/
  slotIdx : BitVec 3
  /-- POLL_CNT (R28). -/
  pollCnt : BitVec 3
  /-- L_DIR (R29): true is write. -/
  lDir    : Bool
  /-- L_BYTE (R29). -/
  lByte   : Bool
  /-- L_NSLOT (R29): slot count minus one. -/
  lNslot  : BitVec 2
  /-- L_PAGE (R29). -/
  lPage   : Page
  /-- L_REG (R29). -/
  lReg    : LReg
  /-- L_WDATA (R30). -/
  lWdata  : Value
  /-- RDATA (R31). -/
  rdata   : Value
  /-- STATUS (R32). -/
  status  : Status
  /-- ERR_INFO (R33). -/
  errInfo : ErrT
  /-- DONE (R34). -/
  done    : Bool
  /-- The model's own: the local `acc` of R161, the value being assembled (log entry 6). -/
  acc     : Value
  /-- The model's own: which free value is drawn next (log entry 5). -/
  draws   : Nat
  /-- The sleep port (R47): how many pauses were asked for (log entry 19). -/
  sleeps  : Nat
  /-- The model's own: the bus trace so far, oldest first (R17; log entry 9). -/
  trace   : List BusEvent
  /-- The command port (R40). -/
  port    : Port
  /-- The lines the host presents after the one at the port (R117; log entry 11). -/
  program : List HostLine
  /-- What the environment does next, first to come first (R45, R77; log entry 7). -/
  env     : List EnvEvent
  deriving DecidableEq, Repr

/-- The machine stops with no fault: every error of the spec is the result of a command and leaves the block ready for the next
one (60_exceptions.md rules R225, R228, R231), and a silent transport leaves it waiting (R46). So there is no constructor, no
definition raises one, and that is safe. -/
inductive Fault where
  deriving DecidableEq, Repr

/-- Why an instruction would have no meaning. -/
inductive Refusal where
  /-- Raised by no meaning and, every row being modelled, by no arm of exec; kept because the interface names it. Safe. -/
  | notModelled (mnemonic : String)
  deriving DecidableEq, Repr

/-- The state after reset (R48, R260). PAGE_CACHE, PHASE, SLOT_IDX, POLL_CNT, STATUS and DONE as the table gives them.
DESIGN CHOICE: the registers it leaves unspecified hold 0 here (log entry 3, unsafe); the ports are idle, the trace is empty
and the environment has not moved (log entries 7, 11). -/
def State.reset : State where
  cache   := ⟨false, 0xFF⟩
  phase   := .idle
  slotIdx := 0
  pollCnt := 0
  lDir    := false
  lByte   := false
  lNslot  := 0
  lPage   := 0
  lReg    := 0
  lWdata  := 0
  rdata   := 0
  status  := .ok
  errInfo := .zero
  done    := false
  acc     := 0
  draws   := 0
  sleeps  := 0
  trace   := []
  port    := ⟨false, 0, 0⟩
  program := []
  env     := []

end Sys2Proof.Machine
end

