-- ==== Sys2Proof/Machine/Flags.lean ====
section
/-!
DEFINITION. The status flags (10_state.md section 1.4): the codes of STATUS, the completion test on a poll answer, the signals
computed from the registers, and what a finish writes into STATUS, ERR_INFO, DONE and RDATA (the table of rule R35).
-/

namespace Sys2Proof.Machine

/-- The 2-bit code of STATUS (R32). -/
def Status.code : Status → BitVec 2
  | .ok => 0
  | .transport => 1
  | .timeout => 2
  | .illegal => 3

/-- The completion test (R116, R145): both opcode bits clear, whatever the direction; bits [15:2] play no part. -/
def pollComplete (v : BusWord) : Bool :=
  v &&& Config.pendingMask == 0

/-- Is `rst` asserted at this moment? -/
def State.rstAsserted (s : State) : Bool :=
  match s.env with
  | .rst :: _ => true
  | _ => false

/-- `cmd_ready` (R40): PHASE = IDLE and reset not asserted. -/
def State.cmdReady (s : State) : Bool :=
  s.phase == .idle && !s.rstAsserted

/-- BUSY = (PHASE ≠ IDLE), no register (R34). -/
def State.busy (s : State) : Bool :=
  s.phase != .idle

/-- May the host use RDATA (R31): DONE = 1, STATUS = OK and the finished command was a read. -/
def State.rdataSpecified (s : State) : Bool :=
  s.done && s.status == .ok && !s.lDir

/-- The one error a command can end with (R220). -/
inductive ErrorKind where
  | transport (e : ErrT)
  | timeout
  | illegal
  deriving DecidableEq, Repr

/-- The STATUS an error is reported as (R202, R220). -/
def ErrorKind.status : ErrorKind → Status
  | .transport _ => .transport
  | .timeout => .timeout
  | .illegal => .illegal

/-- ERR_INFO after an error: the transport's value verbatim (R33, R221); for the others unspecified, so a free value. -/
def ErrorKind.errInfo (k : ErrorKind) (draw : Nat) : ErrT :=
  match k with
  | .transport e => e
  | .timeout => Config.freeErrInfo draw
  | .illegal => Config.freeErrInfo draw

/-- The finish event (R42, R150 "finish(S)"): STATUS, ERR_INFO and RDATA take their final values, DONE <- 1, PHASE <- IDLE. -/
def State.finish (s : State) (st : Status) (e : ErrT) (rdata : Value) : State :=
  { s with status := st, errInfo := e, rdata := rdata, done := true, phase := .idle, draws := s.draws + 1 }

end Sys2Proof.Machine
end

