-- ==== Sys2Proof/Machine/Operands.lean ====
section
/-!
DEFINITION. Operand forms: the words assembled from the command latches (30_encoding.md rules R109 to R116) and the width
codec that splits a value into slot words and assembles one from them (rules R114, R115, R161, R181).
-/

namespace Sys2Proof.Machine

/-- The page-select word of a page (R110): (zext_16(page) << 8) | PAGE_ENABLE. -/
def pageSelectWord (p : Page) : BusWord :=
  (p.setWidth 16 <<< 8) ||| Config.pageEnable

/-- The address/opcode word of a logical register (R111, R112): (zext_16(reg) << 8) | op. -/
def addrWord (reg : LReg) (op : BusWord) : BusWord :=
  (reg.setWidth 16 <<< 8) ||| op

/-- The opcode of a direction (R140): OP_WRITE for a write, OP_READ for a read. -/
def opcodeOf (dir : Bool) : BusWord :=
  if dir then Config.opWrite else Config.opRead

/-- The word staged in slot i (R114, R188): a logical right shift by 16·i in 64 bits, truncated to 16. -/
def slotWord (v : Value) (i : BitVec 3) : BusWord :=
  (v >>> (16 * i.toNat)).setWidth 16

/-- The value with slot i's word placed at bit offset 16·i (R115, R161): acc | (zext_64(w) << 16·i). -/
def placeSlot (acc : Value) (i : BitVec 3) (w : BusWord) : Value :=
  acc ||| (w.setWidth 64 <<< (16 * i.toNat))

/-- The result of an 8-bit read (R163): zext_64(w[7:0]). -/
def byteOfSlot (w : BusWord) : Value :=
  (w.extractLsb' 0 8).setWidth 64

/-- nslots = L_NSLOT + 1 (R29), as wide as SLOT_IDX. -/
def State.nslots (s : State) : BitVec 3 :=
  s.lNslot.setWidth 3 + 1

/-- The command latches loaded from a command word's fields (R41, R102). -/
def State.latch (s : State) (f : CmdFields) : State :=
  { s with lDir := f.dir, lByte := f.byte, lNslot := f.nslot, lPage := f.page, lReg := f.reg }

end Sys2Proof.Machine
end

