-- ==== Sys2Proof/Machine/Ops.lean ====
section
/-!
DEFINITION. The named operations of the block: finishing a command with success or with an error, reset, the two bus
primitives, accepting a command, the rows of the transition table R150, and the whole access they make up. What one step acts
on next (`State.nextEvent`) stands here too, so that Step.lean only calls it.
-/

namespace Sys2Proof.Machine

/-! ## The ends of a command -/

/-- Taking an error, the block's only exception (R15 "raise", R228): the finish event with the error's STATUS, ERR_INFO the
transport's value, RDATA unspecified (R31), so a free value. PAGE_CACHE, the latches, SLOT_IDX and POLL_CNT are kept. There is
no return: the block is in IDLE and accepts the next command (R231). -/
def raise (k : ErrorKind) (s : State) : State :=
  s.finish k.status (k.errInfo s.draws) (Config.freeRdata s.draws)

/-- A write finished: STATUS <- OK; ERR_INFO and RDATA unspecified (R31, R33), so free values. -/
def finishWrite (s : State) : State :=
  s.finish .ok (Config.freeErrInfo s.draws) (Config.freeRdata s.draws)

/-- A read finished: RDATA <- acc, STATUS <- OK (R161); ERR_INFO unspecified (R33), so a free value. -/
def finishRead (s : State) : State :=
  s.finish .ok (Config.freeErrInfo s.draws) s.acc

/-- Reset (R48, R260): the specified registers take their reset values and the others free values (U16). It issues no bus
transaction (R262) and abandons the access in flight without a finish event (R263). -/
def resetRegisters (s : State) : State :=
  { s.latch (CmdFields.ofWord (Config.freeLatches s.draws)) with
    cache   := ⟨false, 0xFF⟩
    phase   := .idle
    slotIdx := 0
    pollCnt := 0
    lWdata  := Config.freeWdata s.draws
    rdata   := Config.freeRdata s.draws
    status  := .ok
    errInfo := Config.freeErrInfo s.draws
    done    := false
    acc     := 0
    draws   := s.draws + 1
    trace   := s.trace ++ [.rst] }

/-! ## The bus -/

/-- BusWrite(r, v) (R13, R45, R46). `onOk` goes on from a successful answer; an error ends the access verbatim (R221); no
answer leaves the access waiting; `rst` abandons it (R263). -/
def busWrite (r : BusReg) (v : BusWord) (onOk : State → State) (s : State) : State :=
  match s.env with
  | [] => s
  | .silent :: rest => { s with env := rest }
  | .rst :: rest => resetRegisters { s with env := rest }
  | .rsp (.ok _) :: rest => onOk { s with env := rest, trace := s.trace ++ [.w r v] }
  | .rsp (.err e) :: rest => raise (.transport e) { s with env := rest, trace := s.trace ++ [.wErr r v e] }

/-- BusRead(r) (R13, R45, R46): as `busWrite`, with the word that was read. -/
def busRead (r : BusReg) (onOk : BusWord → State → State) (s : State) : State :=
  match s.env with
  | [] => s
  | .silent :: rest => { s with env := rest }
  | .rst :: rest => resetRegisters { s with env := rest }
  | .rsp (.ok v) :: rest => onOk v { s with env := rest, trace := s.trace ++ [.r r v] }
  | .rsp (.err e) :: rest => raise (.transport e) { s with env := rest, trace := s.trace ++ [.rErr r e] }

/-! ## Accepting a command -/

/-- The host's side of a handshake: the accepted line leaves the port and the host presents its next one, if it has one
(R40, R117). -/
def State.presentNext (s : State) : State :=
  match s.program with
  | [] => { s with port := { s.port with valid := false } }
  | l :: rest => { s with port := ⟨true, l.cmd, l.wdata⟩, program := rest }

/-- What accepting a legal command writes (R41): the latches, L_WDATA, DONE <- 0, SLOT_IDX <- 0, POLL_CNT <- 0; RDATA becomes
unspecified (R35), so a free value. -/
def acceptFields (f : CmdFields) (wdata : Value) (s : State) : State :=
  { (s.latch f).presentNext with
    lWdata  := wdata
    rdata   := Config.freeRdata s.draws
    done    := false
    slotIdx := 0
    pollCnt := 0
    draws   := s.draws + 1 }

/-- Accepting a legal command (R41, R150 rows IDLE): PHASE <- STAGE for a write, SELECT for a read. L_WDATA <- cmd_wdata for a
write; for a read it is unspecified (R30), so a free value. -/
def accept (f : CmdFields) (s : State) : State :=
  let wdata := if f.dir then s.port.wdata else Config.freeWdata s.draws
  { acceptFields f wdata s with phase := if f.dir then .stage else .select }

/-- Accepting an illegal command word (R106, R150): latch and finish at once with IllegalCommand, no bus transaction. Nothing
else changes (R224) but RDATA and ERR_INFO, which become unspecified (R106): SLOT_IDX, POLL_CNT and L_WDATA are kept (DEDUCED,
log entries 14, 15). -/
def acceptIllegal (w : CmdWord) (s : State) : State :=
  raise .illegal (s.latch (CmdFields.ofWord w)).presentNext

/-! ## The rows of R150 -/

/-- STAGE: write slot SLOT_IDX, then go on to the next slot or to SELECT. -/
def stageRow (s : State) : State :=
  busWrite (.data s.slotIdx) (slotWord s.lWdata s.slotIdx)
    (fun t => { t with
      slotIdx := t.slotIdx + 1
      phase   := if t.slotIdx + 1 = t.nslots then .select else .stage }) s

/-- Does PAGE_CACHE hold the page (R131)? Never while VALID = 0. -/
def State.cacheHit (s : State) (p : Page) : Bool :=
  s.cache.valid && s.cache.page == p

/-- The page-select write for page p (R132, R133): on ok PAGE_CACHE <- (1, p) and PHASE <- ADDR. -/
def pageSelectWrite (p : Page) (s : State) : State :=
  busWrite .page (pageSelectWord p) (fun t => { t with cache := ⟨true, p⟩, phase := .addr }) s

/-- SELECT: on a hit no transaction (R131), else the page-select write. -/
def selectRow (s : State) : State :=
  if s.cacheHit s.lPage then { s with phase := .addr } else pageSelectWrite s.lPage s

/-- The trigger (R142): write the address/opcode word; on ok POLL_CNT <- 0 and PHASE <- POLL. -/
def addrWrite (reg : LReg) (op : BusWord) (s : State) : State :=
  busWrite .addr (addrWord reg op) (fun t => { t with pollCnt := 0, phase := .poll }) s

/-- ADDR: the trigger of the access in flight. -/
def addrRow (s : State) : State :=
  addrWrite s.lReg (opcodeOf s.lDir) s

/-- A poll saw pending (R143, R146, R148): count it; below POLL_MAX pause and stay, at POLL_MAX end with TimeoutError. -/
def pollPending (s : State) : State :=
  if s.pollCnt.toNat + 1 < Config.pollMax then
    { s with pollCnt := s.pollCnt + 1, sleeps := s.sleeps + 1 }
  else
    raise .timeout
      { s with
        pollCnt := s.pollCnt + 1
        sleeps  := if Config.sleepAfterLastPoll then s.sleeps + 1 else s.sleeps }

/-- A poll saw completion (R145): a write is finished, a read goes on to drain the slots into an empty `acc` (R161). -/
def pollDone (s : State) : State :=
  if s.lDir then finishWrite s else { s with slotIdx := 0, acc := 0, phase := .drain }

/-- POLL: read the address register and test both opcode bits. -/
def pollRow (s : State) : State :=
  busRead .addr (fun v t => if pollComplete v then pollDone t else pollPending t) s

/-- DRAIN with L_BYTE = 1: read slot 0 once and keep its low 8 bits. -/
def drainByte (s : State) : State :=
  busRead (.data 0) (fun v t => finishRead { t with acc := byteOfSlot v, slotIdx := 1 }) s

/-- DRAIN with L_BYTE = 0: read slot SLOT_IDX into its place; after the last slot the read is finished. -/
def drainSlot (s : State) : State :=
  busRead (.data s.slotIdx)
    (fun v t =>
      let u := { t with acc := placeSlot t.acc t.slotIdx v, slotIdx := t.slotIdx + 1 }
      if u.slotIdx = u.nslots then finishRead u else u) s

/-- DRAIN. -/
def drainRow (s : State) : State :=
  if s.lByte then drainByte s else drainSlot s

/-- One row of the transition table R150: what the block does next, by PHASE. IDLE has no row of its own here: it waits. -/
def sequencerRow (s : State) : State :=
  match s.phase with
  | .idle => s
  | .stage => stageRow s
  | .select => selectRow s
  | .addr => addrRow s
  | .poll => pollRow s
  | .drain => drainRow s

/-! ## The whole access -/

/-- Does the next row need an answer that is not there (R46)? The hit row of SELECT needs none. -/
def State.waiting (s : State) : Bool :=
  !(s.phase == .select && s.cacheHit s.lPage) &&
    match s.env with
    | [] => true
    | .silent :: _ => true
    | _ => false

/-- Rows, one after the other, until the access has ended, the transport falls silent, or n rows were taken. -/
def runRows : Nat → State → State
  | 0, s => s
  | n + 1, s =>
    if s.phase = .idle then s
    else if s.waiting then sequencerRow s
    else runRows n (sequencerRow s)

/-- A command at the port (R201): accepted when `cmd_ready` and run as far as the environment answers, which is to its end
unless the transport falls silent or `rst` abandons it; while another access is in flight, or under `rst`, nothing happens to
it (R40). DESIGN CHOICE: log entry 12. -/
def access (f : CmdFields) (s : State) : State :=
  if s.cmdReady then runRows Config.maxRows (accept f s) else s

/-! ## What a step acts on -/

/-- What the machine does next. -/
inductive NextEvent where
  /-- `rst` is asserted: it wins over everything (R227). -/
  | reset
  /-- A legal command is accepted. -/
  | command (i : Instr)
  /-- An illegal command word is accepted. -/
  | illegal (w : CmdWord)
  /-- The sequencer writes one of the three bus words. -/
  | busWord (i : Instr)
  /-- Another row of R150. -/
  | row
  /-- IDLE, and no command is presented. -/
  | idleWait
  deriving DecidableEq, Repr

/-- The bus word the sequencer is about to write, if its next row writes one (R150, R110 to R112). -/
def State.nextBusWord (s : State) : Option Instr :=
  match s.phase with
  | .select => if s.cacheHit s.lPage then none else some (.busPageSelect s.lPage)
  | .addr => some (if s.lDir then .busAddrWrite s.lReg else .busAddrRead s.lReg)
  | _ => none

/-- What stands at the command port: nothing, a legal command, or an illegal word (R106, R201). -/
def State.atPort (s : State) : NextEvent :=
  if s.port.valid then
    match decode (.cmd32 s.port.cmd) with
    | .ok i => .command i
    | .error _ => .illegal s.port.cmd
  else .idleWait

/-- What the machine does next: reset first, then the access in flight, then the command port. -/
def State.nextEvent (s : State) : NextEvent :=
  if s.rstAsserted then .reset
  else if s.phase = .idle then s.atPort
  else
    match s.nextBusWord with
    | some i => .busWord i
    | none => .row

/-- `rst` consumed from the environment. -/
def takeReset (s : State) : State :=
  resetRegisters { s with env := s.env.tail }

/-- IDLE without a command: the block waits (R48); a silent moment passes (log entry 8). -/
def idleStep (s : State) : State :=
  match s.env with
  | .silent :: rest => { s with env := rest }
  | _ => s

/-! ## Placing a word where the next step takes it -/

/-- The environment with any assertion of `rst` at its front taken away. -/
def envPastReset : List EnvEvent → List EnvEvent
  | .rst :: rest => envPastReset rest
  | env => env

/-- The state with the block in IDLE and a command word presented at the port. -/
def State.presentCommand (s : State) (w : CmdWord) : State :=
  { s with phase := .idle, env := envPastReset s.env, port := { s.port with valid := true, cmd := w } }

/-- The state in which the sequencer's next row writes the given bus word; unchanged for a word it never writes. -/
def State.presentBusWord (s : State) (w : BusWord) : State :=
  match decodeBus (tableBusReg w) w with
  | .ok (.busPageSelect p) =>
    { s with phase := .select, lPage := p, cache := { s.cache with valid := false }, env := envPastReset s.env }
  | .ok (.busAddrRead r) => { s with phase := .addr, lDir := false, lReg := r, env := envPastReset s.env }
  | .ok (.busAddrWrite r) => { s with phase := .addr, lDir := true, lReg := r, env := envPastReset s.env }
  | _ => s

end Sys2Proof.Machine
end

