-- ==== Sys2Proof/Machine/BusWords.lean ====
section
/-!
DEFINITION. The three BUS16 rows (30_encoding.md rules R110 to R113): words the IRMC writes itself, never the host (R119). The
sequencer runs them: in SELECT on a miss and in ADDR the step of the machine is exactly one of these. Each is the bus write with
what its answer does (R132, R133, R142; the SELECT and ADDR rows of R150). DESIGN CHOICE: log entry 16.
-/

namespace Sys2Proof.Machine

/-- bus.page_select (R110): W(PAGE, page ∥ 0x01); on ok PAGE_CACHE <- (1, page) and PHASE <- ADDR. -/
def execBusPageSelect (page : Page) (s : State) : Host.Outcome State Fault Refusal :=
  .next (pageSelectWrite page s)

/-- bus.addr_read (R111): W(ADDR, reg ∥ 0x02); on ok POLL_CNT <- 0 and PHASE <- POLL. -/
def execBusAddrRead (reg : LReg) (s : State) : Host.Outcome State Fault Refusal :=
  .next (addrWrite reg Config.opRead s)

/-- bus.addr_write (R112): W(ADDR, reg ∥ 0x01); on ok POLL_CNT <- 0 and PHASE <- POLL. -/
def execBusAddrWrite (reg : LReg) (s : State) : Host.Outcome State Fault Refusal :=
  .next (addrWrite reg Config.opWrite s)

end Sys2Proof.Machine
end

