-- ==== Sys2Proof/Machine/Read.lean ====
section
/-!
DEFINITION. The five read commands (42_read.md): select the page, trigger with OP_READ, poll, drain the slots in ascending
order (R161). Each is the access of its CMD32 fields (R103), the width carried by BYTE and NSLOT (R104).
-/

namespace Sys2Proof.Machine

/-- read8(page, reg) (R163): BYTE = 1: one slot, only its low 8 bits are kept. -/
def execRead8 (page : Page) (reg : LReg) (s : State) : Host.Outcome State Fault Refusal :=
  .next (access ⟨0, false, true, 0, page, reg⟩ s)

/-- read16(page, reg) (R164): one slot, no mask. -/
def execRead16 (page : Page) (reg : LReg) (s : State) : Host.Outcome State Fault Refusal :=
  .next (access ⟨0, false, false, 0, page, reg⟩ s)

/-- read32(page, reg) (R165): two slots. -/
def execRead32 (page : Page) (reg : LReg) (s : State) : Host.Outcome State Fault Refusal :=
  .next (access ⟨0, false, false, 1, page, reg⟩ s)

/-- read48(page, reg) (R166): three slots, RDATA[63:48] = 0. -/
def execRead48 (page : Page) (reg : LReg) (s : State) : Host.Outcome State Fault Refusal :=
  .next (access ⟨0, false, false, 2, page, reg⟩ s)

/-- read64(page, reg) (R167): four slots. -/
def execRead64 (page : Page) (reg : LReg) (s : State) : Host.Outcome State Fault Refusal :=
  .next (access ⟨0, false, false, 3, page, reg⟩ s)

end Sys2Proof.Machine
end

