-- ==== Sys2Proof/Machine/Write.lean ====
section
/-!
DEFINITION. The five write commands (43_write.md): stage the slots in ascending order, select the page, trigger with OP_WRITE,
poll (R181). The value is the `cmd_wdata` port, latched at accept (R180, R107).
-/

namespace Sys2Proof.Machine

/-- write8(page, reg, cmd_wdata) (R183): one slot, staged with value[15:0], not value[7:0]. -/
def execWrite8 (page : Page) (reg : LReg) (s : State) : Host.Outcome State Fault Refusal :=
  .next (access ⟨0, true, true, 0, page, reg⟩ s)

/-- write16(page, reg, cmd_wdata) (R184): one slot. -/
def execWrite16 (page : Page) (reg : LReg) (s : State) : Host.Outcome State Fault Refusal :=
  .next (access ⟨0, true, false, 0, page, reg⟩ s)

/-- write32(page, reg, cmd_wdata) (R185): two slots. -/
def execWrite32 (page : Page) (reg : LReg) (s : State) : Host.Outcome State Fault Refusal :=
  .next (access ⟨0, true, false, 1, page, reg⟩ s)

/-- write48(page, reg, cmd_wdata) (R186): three slots, value[63:48] ignored. -/
def execWrite48 (page : Page) (reg : LReg) (s : State) : Host.Outcome State Fault Refusal :=
  .next (access ⟨0, true, false, 2, page, reg⟩ s)

/-- write64(page, reg, cmd_wdata) (R187): four slots. -/
def execWrite64 (page : Page) (reg : LReg) (s : State) : Host.Outcome State Fault Refusal :=
  .next (access ⟨0, true, false, 3, page, reg⟩ s)

end Sys2Proof.Machine
end

