-- ==== Sys2Proof/Machine/Dispatch.lean ====
section
/-!
DEFINITION. The dispatch of every instruction to its meaning (44_facade_lifecycle.md rule R201).
-/

namespace Sys2Proof.Machine

def exec (i : Instr) (s : State) : Host.Outcome State Fault Refusal :=
  match i with
  | .read8 page reg => Sys2Proof.Machine.execRead8 page reg s
  | .read16 page reg => Sys2Proof.Machine.execRead16 page reg s
  | .read32 page reg => Sys2Proof.Machine.execRead32 page reg s
  | .read48 page reg => Sys2Proof.Machine.execRead48 page reg s
  | .read64 page reg => Sys2Proof.Machine.execRead64 page reg s
  | .write8 page reg => Sys2Proof.Machine.execWrite8 page reg s
  | .write16 page reg => Sys2Proof.Machine.execWrite16 page reg s
  | .write32 page reg => Sys2Proof.Machine.execWrite32 page reg s
  | .write48 page reg => Sys2Proof.Machine.execWrite48 page reg s
  | .write64 page reg => Sys2Proof.Machine.execWrite64 page reg s
  | .busPageSelect page => Sys2Proof.Machine.execBusPageSelect page s
  | .busAddrRead reg => Sys2Proof.Machine.execBusAddrRead reg s
  | .busAddrWrite reg => Sys2Proof.Machine.execBusAddrWrite reg s

end Sys2Proof.Machine
end

