-- ==== Sys2Proof/Machine/Step.lean ====
section
/-!
DEFINITION. One step of the machine, and the state in which the next step takes a given word.
-/

namespace Sys2Proof.Machine

/-- One step. `rst` first (R227); in IDLE the command at the port (R201), an illegal word (R106), or waiting (R48); with an
access in flight the next row of R150, where a row that writes a bus word is that word's instruction. -/
def step (s : State) : Host.Outcome State Fault Refusal :=
  match s.nextEvent with
  | .reset => .next (takeReset s)
  | .command i => exec i s
  | .illegal w => .next (acceptIllegal w s)
  | .busWord i => exec i s
  | .row => .next (sequencerRow s)
  | .idleWait => .next (idleStep s)

/-- The state in which the next step runs the given word: a command word stands at the command port, a bus word is what the
sequencer writes next. There is no program memory (R60): log entry 18 says how a program comes to run. -/
def State.withFetchWord (s : State) (nbits w : Nat) : State :=
  if nbits = 16 then s.presentBusWord (BitVec.ofNat 16 w) else s.presentCommand (BitVec.ofNat 32 w)

end Sys2Proof.Machine
end

