-- ==== Sys2Proof/Machine/Core.lean ====
section
/-!
DEFINITION. The machine behind Host/Core.lean. A host that breaks its duties H2 to H5 of 70_reset_and_hazards.md rule R268 has no
move here (92_eei_decisions.md D19): one command port that one host drives (H2), one environment to an instance that nobody
else drives (H3, H4), and a machine that begins in the state after reset, so that none is used before one (H5). Log entry 27.
-/

def Sys2Proof.core : Host.Core := { State := Sys2Proof.Machine.State, Fault := Sys2Proof.Machine.Fault, Refusal := Sys2Proof.Machine.Refusal, step := Sys2Proof.Machine.step, reset := Sys2Proof.Machine.State.reset }
end

