-- ==== Sys2Proof/Machine/Environment.lean ====
section
/-!
DEFINITION. The device contract (20_memory.md rules R78 to R84): what the source says the device behind the bus does, as a
relation between a device, one bus event and the device after it. It is a hypothesis of the claims that need it and no part of
any step (92_eei_decisions.md D27). The selected page changes by a page-select write alone (R78), failed writes and reset apart.
Whatever R85 lists as unsaid is left unconstrained: what a failed transaction did (U1, U14), a new trigger over a pending
operation (U15), the slots while one is pending (R275), the device's registers after a read, all registers but the one written
after a write, and, across a reset, the whole device, because the transaction outstanding then may or may not have reached it
(R263). DEDUCED: log entry 24; for the reset, DESIGN CHOICE: log entry 28; that bus reads have no side effect, DESIGN CHOICE: log
entry 29.
-/

namespace Sys2Proof.Machine

/-- An operation the device was triggered to do (R79): its direction (true is a write) and its logical address. -/
structure DeviceOp where
  dir  : Bool
  page : Page
  reg  : LReg
  deriving DecidableEq, Repr

/-- The device as the bus sees it (R37): the selected page, the operation in flight, the data slots and the logical registers. -/
structure Device where
  page  : Page
  op    : Option DeviceOp
  slots : BitVec 3 → BusWord
  regs  : Page → LReg → Value

/-- The value the slots hold for a register of a width (R82): lane i from slot i; for 8 bits the low half of slot 0. -/
def slotsValue (n : Width) (slots : BitVec 3 → BusWord) : Value :=
  match n with
  | .w8 => ((slots 0).extractLsb' 0 8).setWidth 64
  | .w16 => (slots 0).setWidth 64
  | .w32 => (slots 1 ++ slots 0).setWidth 64
  | .w48 => (slots 2 ++ slots 1 ++ slots 0).setWidth 64
  | .w64 => slots 3 ++ slots 2 ++ slots 1 ++ slots 0

/-- The device performs an operation (R81, R82): a write takes the register's value from the slots; a read puts it into the
slots, where an 8-bit register leaves the high half of slot 0 open. -/
def Device.Performs (width : Page → LReg → Width) (d : Device) (o : DeviceOp) (d' : Device) : Prop :=
  let n := width o.page o.reg
  d'.page = d.page ∧ d'.op = none ∧
    if o.dir = true then d'.regs o.page o.reg = slotsValue n d.slots
    else slotsValue n d'.slots = slotsValue n (slotWord (d.regs o.page o.reg))

/-- A poll of a device with the operation `o` in flight (R80): pending while its opcode bit reads set, else performed. That a
pending poll changes nothing of the device is the model's choice, R75 stating no side effect of it either way. DESIGN CHOICE:
log entry 29. -/
def Device.Polled (width : Page → LReg → Width) (d : Device) (o : DeviceOp) (v : BusWord) (d' : Device) : Prop :=
  if pollComplete v = true then d.Performs width o d' else v &&& opcodeOf o.dir ≠ 0 ∧ d' = d

/-- A page-select write that returned ok (R78): the page is selected, whatever is in flight. An operation in flight stays so; to
which of the two pages it then goes is not said, and is left open (log entry 24). -/
def Device.Selects (d : Device) (p : Page) (d' : Device) : Prop :=
  match d.op with
  | none => d' = { d with page := p }
  | some o => ∃ q, (q = o.page ∨ q = p) ∧ d' = { d with page := p, op := some { o with page := q } }

/-- A slot write that returned ok. While an operation is in flight it may disturb it (R275): what the slots hold then and whether
the operation is over is left open, and so is every register, because an operation may reach neighbouring ones (R85). -/
def Device.Stages (d : Device) (i : BitVec 3) (v : BusWord) (d' : Device) : Prop :=
  match d.op with
  | none => d' = { d with slots := fun j => if j = i then v else d.slots j }
  | some o =>
    d'.page = d.page ∧ (d'.op = none ∨ d'.op = some o)

/-- One bus event at a device that keeps the contract. Across `rst` the device is free, though reset itself touches nothing of
it (R262): the transaction outstanding at `rst` may or may not have reached it (R263), and the trace does not say which it was.
DESIGN CHOICE: log entry 28. That a read of a slot, or of ADDR with nothing in flight, changes nothing of the device is the
model's choice too, R75 stating no side effect either way. DESIGN CHOICE: log entry 29. -/
def Device.Reacts (width : Page → LReg → Width) (d : Device) (e : BusEvent) (d' : Device) : Prop :=
  match e with
  | .r .addr v =>
    match d.op with
    | none => pollComplete v = true ∧ d' = d
    | some o => d.Polled width o v d'
  | .w .page v => ∀ p, v = pageSelectWord p → d.Selects p d'
  | .w .addr v =>
    d'.page = d.page ∧
      (d.op = none → ∀ dir reg, v = addrWord reg (opcodeOf dir) → d' = { d with op := some ⟨dir, d.page, reg⟩ })
  | .w (.data i) v => d.Stages i v d'
  | .r (.data i) v => d' = d ∧ (d.op = none → v = d.slots i)
  | .r .page _ => d'.page = d.page
  | .wErr .page _ _ => True
  | .wErr _ _ _ => d'.page = d.page
  | .rErr _ _ => d'.page = d.page
  | .rst => True

/-- A whole trace at a device that keeps the contract. -/
def Device.Follows (width : Page → LReg → Width) : Device → List BusEvent → Device → Prop
  | d, [], d' => d' = d
  | d, e :: es, d' => ∃ x, d.Reacts width e x ∧ Device.Follows width x es d'

end Sys2Proof.Machine
end

