-- ==== Sys2Proof/Machine/Ports.lean ====
section
/-!
DEFINITION. The block's output ports as functions of its registers (10_state.md rules R40 to R47): the host's result port, the
bus request port, and what an entry of the trace was requested with. Inputs stand in State (`port`, `env`); `cmd_ready` is
`State.cmdReady`, and the pauses of the sleep port are counted in `State.sleeps`.
-/

namespace Sys2Proof.Machine

/-- The host's result port (R42), with `cmd_ready` (R40). -/
structure ResultPort where
  cmdReady : Bool
  done     : Bool
  status   : BitVec 2
  errInfo  : ErrT
  rdata    : Value
  deriving DecidableEq, Repr

/-- What the result port shows. -/
def State.resultPort (s : State) : ResultPort where
  cmdReady := s.cmdReady
  done     := s.done
  status   := s.status.code
  errInfo  := s.errInfo
  rdata    := s.rdata

/-- One bus transaction as the block asks for it, its register by role (R13, R17). -/
inductive Transaction where
  | write (r : BusReg) (v : BusWord)
  | read (r : BusReg)
  deriving DecidableEq, Repr

/-- The transaction the block asks for by its registers alone: the column "transaction issued" of R150. -/
def State.pendingTransaction (s : State) : Option Transaction :=
  match s.phase with
  | .idle => none
  | .stage => some (.write (.data s.slotIdx) (slotWord s.lWdata s.slotIdx))
  | .select => if s.cacheHit s.lPage then none else some (.write .page (pageSelectWord s.lPage))
  | .addr => some (.write .addr (addrWord s.lReg (opcodeOf s.lDir)))
  | .poll => some (.read .addr)
  | .drain => some (.read (.data (if s.lByte then 0 else s.slotIdx)))

/-- The transaction the block asks for: none while `rst` is asserted (R43). -/
def State.transaction? (s : State) : Option Transaction :=
  if s.rstAsserted then none else s.pendingTransaction

/-- The trace entry of a transaction with its answer (R17). -/
def Transaction.event (x : Transaction) (a : BusRsp) : BusEvent :=
  match x, a with
  | .write r v, .ok _ => .w r v
  | .write r v, .err e => .wErr r v e
  | .read r, .ok v => .r r v
  | .read r, .err e => .rErr r e

/-- The wires of one bus request (R44): direction, device address, register number, data. -/
structure BusRequest where
  write : Bool
  addr  : BitVec 5
  reg   : BitVec 5
  wdata : BusWord
  deriving DecidableEq, Repr

/-- A transaction on the wires, given the wiring (R10, R44). `bus_req_wdata` has no meaning for a read: shown as 0. -/
def Transaction.request (c : BusNumbers) : Transaction → BusRequest
  | .write r v => ⟨true, Config.pseudoAddr, r.number c, v⟩
  | .read r => ⟨false, Config.pseudoAddr, r.number c, 0⟩

/-- The bus request port (R44): `none` is `bus_req_valid` = 0. -/
def State.busRequest? (c : BusNumbers) (s : State) : Option BusRequest :=
  s.transaction?.map (Transaction.request c)

/-- A transaction's register is one of the six of R63, used in a direction R63 gives it. -/
def Transaction.inMap : Transaction → Bool
  | .write (.data i) _ => i.toNat < 4
  | .write _ _ => true
  | .read .addr => true
  | .read (.data i) => i.toNat < 4
  | .read .page => false

end Sys2Proof.Machine
end

