-- ==== Sys2Proof/Machine/Pseudocode.lean ====
section
/-!
DEFINITION. The source's own algorithms as the spec prints them: `select_page` (40_page_select.md rule R130), `run_op`
(41_sequencer.md rule R140), `read_N` (42_read.md rule R161) and `write_N` (43_write.md rule R181). They are the reference the
transition table R150 must agree with (R151); no step calls them, claims do.
-/

namespace Sys2Proof.Machine

/-- What a sub-operation returns (R15); `unanswered` when the list of answers ran out (R46). -/
inductive Result (α : Type) where
  | ok (a : α)
  | transport (e : ErrT)
  | timeout
  | unanswered
  deriving DecidableEq, Repr

/-- What the pseudocode reads and writes: PAGE_CACHE, the answers still to come, and the bus trace of this access. -/
structure World where
  cache   : PageCache
  answers : List BusRsp
  trace   : List BusEvent
  deriving DecidableEq, Repr

/-- The `?` of R15: go on with an ok value, return any error at once. -/
def andThen {α β : Type} (x : Result α × World) (f : α → World → Result β × World) : Result β × World :=
  match x.1 with
  | .ok a => f a x.2
  | .transport e => (.transport e, x.2)
  | .timeout => (.timeout, x.2)
  | .unanswered => (.unanswered, x.2)

/-- BusWrite(r, v) of R13. -/
def World.busWrite (r : BusReg) (v : BusWord) (w : World) : Result Unit × World :=
  match w.answers with
  | [] => (.unanswered, w)
  | .ok _ :: rest => (.ok (), { w with answers := rest, trace := w.trace ++ [.w r v] })
  | .err e :: rest => (.transport e, { w with answers := rest, trace := w.trace ++ [.wErr r v e] })

/-- BusRead(r) of R13. -/
def World.busRead (r : BusReg) (w : World) : Result BusWord × World :=
  match w.answers with
  | [] => (.unanswered, w)
  | .ok v :: rest => (.ok v, { w with answers := rest, trace := w.trace ++ [.r r v] })
  | .err e :: rest => (.transport e, { w with answers := rest, trace := w.trace ++ [.rErr r e] })

/-- select_page(p) (R130). -/
def World.selectPage (p : Page) (w : World) : Result Unit × World :=
  if w.cache.valid = true ∧ w.cache.page = p then (.ok (), w)
  else andThen (w.busWrite .page (pageSelectWord p)) (fun _ u => (.ok (), { u with cache := ⟨true, p⟩ }))

/-- The poll loop of run_op with k polls left (R140 step 3, R143 to R146). -/
def World.pollLoop : Nat → World → Result Unit × World
  | 0, w => (.timeout, w)
  | k + 1, w =>
    andThen (w.busRead .addr) (fun v u => if v &&& Config.pendingMask = 0 then (.ok (), u) else u.pollLoop k)

/-- run_op(p, reg, op) (R140). -/
def World.runOp (p : Page) (reg : LReg) (op : BusWord) (w : World) : Result Unit × World :=
  andThen (w.selectPage p) fun _ u =>
    andThen (u.busWrite .addr (addrWord reg op)) fun _ x => x.pollLoop Config.pollMax

/-- The drain loop of read_N over the slots still to read, in ascending order (R161). -/
def World.drainSlots : List (BitVec 3) → Value → World → Result Value × World
  | [], acc, w => (.ok acc, w)
  | i :: is, acc, w => andThen (w.busRead (.data i)) (fun v u => u.drainSlots is (placeSlot acc i v))

/-- The staging loop of write_N over the slots still to write, in ascending order (R181). -/
def World.stageSlots (value : Value) : List (BitVec 3) → World → Result Unit × World
  | [], w => (.ok (), w)
  | i :: is, w => andThen (w.busWrite (.data i) (slotWord value i)) (fun _ u => u.stageSlots value is)

/-- The slots 0 .. nslots−1 of a width, ascending (R161, R181). -/
def slotsOf : Width → List (BitVec 3)
  | .w8 => [0]
  | .w16 => [0]
  | .w32 => [0, 1]
  | .w48 => [0, 1, 2]
  | .w64 => [0, 1, 2, 3]

/-- read_N(page, reg) (R161); for N = 8 the value is masked to 8 bits. -/
def World.readN (n : Width) (page : Page) (reg : LReg) (w : World) : Result Value × World :=
  andThen (w.runOp page reg Config.opRead) fun _ u =>
    andThen (u.drainSlots (slotsOf n) 0) fun acc x => (.ok (if n = .w8 then acc &&& 0xFF else acc), x)

/-- write_N(page, reg, value) (R181). -/
def World.writeN (n : Width) (page : Page) (reg : LReg) (value : Value) (w : World) : Result Unit × World :=
  andThen (w.stageSlots value (slotsOf n)) fun _ u => u.runOp page reg Config.opWrite

end Sys2Proof.Machine
end

