-- ==== Sys2Proof/Machine/RefDevice.lean ====
section
/-!
DEFINITION. RefDevice (95_test_vectors.md section 2), the reference environment of the spec's test programs: no part of the IRMC
and no description of a chip (92_eei_decisions.md D21), and the block and RefDevice run together.
-/

namespace Sys2Proof.Machine

/-- RefDevice's state and parameters, by the names of its table. `lat = none` is the latency ∞. -/
structure RefDevice where
  /-- P, the selected page. -/
  page  : Page
  /-- A, the address/opcode register. -/
  addr  : BusWord
  /-- S[0..3], the data slots. -/
  slots : BitVec 3 → BusWord
  /-- M, the logical registers. -/
  regs  : Page → LReg → Value
  /-- Wd, the width of each logical register. -/
  width : Page → LReg → Width
  /-- pend, the polls still to be answered pending; `none` for ever. -/
  pend  : Option Nat
  /-- An operation was triggered and is not yet performed. -/
  busy  : Bool
  /-- The value loaded into `pend` at each trigger. -/
  lat   : Option Nat
  /-- JUNK, the high byte of slot 0 after a read of an 8-bit register. -/
  junk  : BitVec 8
  /-- F, the transactions that fail, counted from 0. -/
  fails : List Nat
  /-- E1, the error of a failing transaction. -/
  err   : ErrT
  /-- n, the number of the next transaction. -/
  count : Nat

/-- perform(): a write takes the addressed register's value from the slots; a read puts it into the slots of its width. -/
def RefDevice.perform (d : RefDevice) : RefDevice :=
  let reg := d.addr.extractLsb' 8 8
  let n := d.width d.page reg
  if d.addr.getLsbD 0 then
    { d with regs := fun p r => if p = d.page ∧ r = reg then slotsValue n d.slots else d.regs p r }
  else if d.addr.getLsbD 1 then
    { d with
      slots := fun i =>
        if i.toNat < n.nslots then
          if n = .w8 then d.junk ++ (d.regs d.page reg).extractLsb' 0 8 else slotWord (d.regs d.page reg) i
        else d.slots i }
  else d

/-- R(ADDR): pending while `pend` polls are left, then the operation is performed and its opcode bit clears. -/
def RefDevice.poll (d : RefDevice) : BusWord × RefDevice :=
  if d.busy then
    match d.pend with
    | none => (d.addr, d)
    | some (k + 1) => (d.addr, { d with pend := some k })
    | some 0 =>
      let done := d.perform
      (d.addr &&& 0xFFFC, { done with busy := false, addr := d.addr &&& 0xFFFC })
  else (d.addr, d)

/-- A transaction that does not fail. -/
def RefDevice.serve (d : RefDevice) : Transaction → BusWord × RefDevice
  | .write .page w => (0, if w.getLsbD 0 then { d with page := w.extractLsb' 8 8 } else d)
  | .write .addr w => (0, { d with addr := w, pend := d.lat, busy := true })
  | .write (.data i) w => (0, { d with slots := fun j => if j = i then w else d.slots j })
  | .read (.data i) => (d.slots i, d)
  | .read .page => (0, d)
  | .read .addr => d.poll

/-- RefDevice's answer to a transaction: err(E1) and no change for the numbers in F. -/
def RefDevice.answer (d : RefDevice) (x : Transaction) : BusRsp × RefDevice :=
  if d.fails.contains d.count then (.err d.err, { d with count := d.count + 1 })
  else (.ok (d.serve x).1, { (d.serve x).2 with count := d.count + 1 })

/-- RefDevice as the device of the contract: an operation is in flight while `busy`, a write if A[0] = 1, on the page selected
now: RefDevice performs it there (its `perform()`). -/
def RefDevice.toDevice (d : RefDevice) : Device where
  page  := d.page
  op    := if d.busy then some ⟨d.addr.getLsbD 0, d.page, d.addr.extractLsb' 8 8⟩ else none
  slots := d.slots
  regs  := d.regs

/-- One step of the block wired to RefDevice: the transaction it asks for, if any, is answered by the device. -/
def stepWith (s : State) (d : RefDevice) : Host.Outcome State Fault Refusal × RefDevice :=
  match { s with env := [] }.transaction? with
  | some x => (step { s with env := [.rsp (d.answer x).1] }, (d.answer x).2)
  | none => (step { s with env := [] }, d)

end Sys2Proof.Machine
end

