-- ==== Sys2Proof/Machine/System.lean ====
section
/-!
DEFINITION. Several instances (20_memory.md rule R91, 60_exceptions.md rule R238): one state each, stepped one at a time in any
order. Each has its own transport (its own `env`); two instances on one transport are outside the spec (70_reset_and_hazards.md
rule R272; log entry 23).
-/

namespace Sys2Proof.Machine

/-- Instance k takes a step; the others do nothing. With no instance k nothing happens. -/
def stepInstance (k : Nat) (sys : List State) : Host.Outcome (List State) Fault Refusal :=
  match sys[k]? with
  | none => .next sys
  | some s =>
    match step s with
    | .next t => .next (sys.set k t)
    | .fault r => .fault r
    | .refused r => .refused r

end Sys2Proof.Machine
end

