-- ==== Sys2Proof/Safety.lean ====
section
/-!
DEFINITION. The terms claims use: the finish of a command and the end of a run, what a trace says of the page cache, the
kinds of bus events, and the invariant that every step keeps.
-/

namespace Sys2Proof.Machine

/-- The last command accepted has finished (R42): PHASE = IDLE and DONE = 1. -/
def State.finished (s : State) : Bool :=
  s.phase == .idle && s.done

/-- The run has ended (70_reset_and_hazards.md rule R266): its last command has finished, so nothing stands at the command port
and the host has no line left. No transaction is outstanding, PHASE being IDLE. -/
def State.ended (s : State) : Bool :=
  s.finished && !s.port.valid && s.program.isEmpty

/-- PAGE_CACHE as the source describes it: a page, or the sentinel (R21). -/
def PageCache.view (c : PageCache) : Option Page :=
  if c.valid then some c.page else none

/-- The page most recently confirmed selected on the bus, from one more event (R22). -/
def selectedAfter (p : Option Page) : BusEvent → Option Page
  | .w .page v => some (v.extractLsb' 8 8)
  | .rst => none
  | _ => p

/-- The page most recently confirmed selected in a trace since its last reset (R22). -/
def selectedIn (trace : List BusEvent) : Option Page :=
  trace.foldl selectedAfter none

/-- Did the transaction return an error? -/
def BusEvent.failed : BusEvent → Bool
  | .wErr _ _ _ | .rErr _ _ => true
  | _ => false

/-- Is it a page-select write that returned ok? -/
def BusEvent.selects : BusEvent → Bool
  | .w .page _ => true
  | _ => false

/-- A write to the given register, whatever its answer. -/
def BusEvent.writes (r : BusReg) : BusEvent → Bool
  | .w q _ | .wErr q _ _ => q == r
  | _ => false

/-- A write to some data slot, whatever its answer (staging). -/
def BusEvent.stages : BusEvent → Bool
  | .w (.data _) _ | .wErr (.data _) _ _ => true
  | _ => false

/-- A read of some data slot, whatever its answer (draining). -/
def BusEvent.drains : BusEvent → Bool
  | .r (.data _) _ | .rErr (.data _) _ => true
  | _ => false

/-- A read of the address register, whatever its answer (a poll). -/
def BusEvent.polls : BusEvent → Bool
  | .r .addr _ | .rErr .addr _ => true
  | _ => false

/-- A poll that saw completion (R145). -/
def BusEvent.completes : BusEvent → Bool
  | .r .addr v => pollComplete v
  | _ => false

/-- The word of a write to REG_PAGE or REG_ADDR has the form of R110 to R112; every other event passes (R113). -/
def BusEvent.wordWellFormed : BusEvent → Bool
  | .w .page v | .wErr .page v _ => v.extractLsb' 0 8 == 0x01#8
  | .w .addr v | .wErr .addr v _ => v.extractLsb' 0 8 == 0x01#8 || v.extractLsb' 0 8 == 0x02#8
  | _ => true

/-! ## The environment's answers and the traces of sub-operations, as claims write them -/

/-- Successful answers, in order, with the word each carries (ignored by a write). -/
def oks (l : List BusWord) : List EnvEvent :=
  l.map (fun v => .rsp (.ok v))

/-- Answers of either kind, in order: an environment that neither falls silent nor resets. -/
def answered (l : List BusRsp) : List EnvEvent :=
  l.map .rsp

/-- The answer the page select needs: none on a hit, one on a miss (R131, R132). -/
def State.selectAnswer (s : State) (p : Page) (x : BusWord) : List EnvEvent :=
  if s.cache = ⟨true, p⟩ then [] else oks [x]

/-- The trace of a page select that succeeds: empty on a hit, W(PAGE, p ∥ 0x01) on a miss (R131, R132). -/
def State.selectTrace (s : State) (p : Page) : List BusEvent :=
  if s.cache = ⟨true, p⟩ then [] else [.w .page (pageSelectWord p)]

/-- Fewer than POLL_MAX pending poll answers, then a completing one (R143). -/
def CompletesAfter (pend : List BusWord) (v : BusWord) : Prop :=
  pend.length < Config.pollMax ∧ (∀ w ∈ pend, pollComplete w = false) ∧ pollComplete v = true

/-- The answers run_op needs to succeed: the page select's, one for the trigger, the pending polls and the completing one. -/
def State.runOpAnswers (s : State) (p : Page) (x y : BusWord) (pend : List BusWord) (v : BusWord) : List EnvEvent :=
  s.selectAnswer p x ++ oks (y :: pend ++ [v])

/-- The trace of a run_op that succeeds (R140): page select, trigger, polls. -/
def State.runOpTrace (s : State) (p : Page) (reg : LReg) (op : BusWord) (pend : List BusWord) (v : BusWord) :
    List BusEvent :=
  s.selectTrace p ++ [.w .addr (addrWord reg op)] ++ pend.map (.r .addr) ++ [.r .addr v]

/-- The five command latches hold the fields of a command (R102). -/
def State.holds (t : State) (f : CmdFields) : Prop :=
  t.lDir = f.dir ∧ t.lByte = f.byte ∧ t.lNslot = f.nslot ∧ t.lPage = f.page ∧ t.lReg = f.reg

/-- A command finished (R42): PHASE = IDLE, DONE = 1, the given STATUS, the latches still hold it (R228), and the host has
presented its next line. -/
def State.finishedFrom (s t : State) (f : CmdFields) (st : Status) : Prop :=
  t.phase = .idle ∧ t.done = true ∧ t.status = st ∧ t.holds f ∧
    t.port = s.presentNext.port ∧ t.program = s.presentNext.program

/-- PAGE_CACHE after one more bus event (R23): only a page-select write that returned ok, and a reset, write it. -/
def cacheAfter (c : PageCache) : BusEvent → PageCache
  | .w .page v => ⟨true, v.extractLsb' 8 8⟩
  | .rst => ⟨false, 0xFF⟩
  | _ => c

/-- What every state of a run meets. -/
structure State.Inv (s : State) : Prop where
  /-- DONE = 1 only in IDLE (R34). -/
  done_idle : s.done = true → s.phase = .idle
  /-- SLOT_IDX ≤ 4 (R27). -/
  slot_range : s.slotIdx.toNat ≤ 4
  /-- POLL_CNT ≤ 5 (R28). -/
  poll_range : s.pollCnt.toNat ≤ Config.pollMax
  /-- While polling fewer than POLL_MAX polls were made (R28, R146). -/
  poll_below : s.phase = .poll → s.pollCnt.toNat < Config.pollMax
  /-- Only a write is staged, and only slots below nslots (R26, R69). -/
  stage_write : s.phase = .stage → s.lDir = true ∧ s.slotIdx < s.nslots
  /-- Only a read is drained, and only slots below nslots (R26, R69). -/
  drain_read : s.phase = .drain → s.lDir = false ∧ s.slotIdx < s.nslots
  /-- An access in flight is that of a legal command (R104). -/
  byte_one : s.phase ≠ .idle → s.lByte = true → s.lNslot = 0
  /-- From ADDR on the page cache holds the access's page (R26). -/
  selected : s.phase = .addr ∨ s.phase = .poll ∨ s.phase = .drain → s.cache = ⟨true, s.lPage⟩
  /-- While draining only the slots already read are in `acc` (R161). -/
  acc_low : s.phase = .drain → s.acc.toNat < 2 ^ (16 * s.slotIdx.toNat)
  /-- A specified RDATA is zero above the access's slots, and above bit 7 for the 8-bit width (R108). -/
  rdata_low : s.rdataSpecified = true →
    s.rdata.toNat < 2 ^ (16 * s.nslots.toNat) ∧ (s.lByte = true → s.rdata.toNat < 2 ^ 8)
  /-- PAGE_CACHE is the page most recently confirmed selected since the last reset, or the sentinel (R22). -/
  cache_trace : s.cache.view = selectedIn s.trace

end Sys2Proof.Machine
end

