-- ==== Sys2Proof/Certificates/Slice0/Obligations.lean ====
section
/-!
DEFINITION. The statements for the provers, from the spec's numbered rules. Titles, texts and cites stand in OBLIGATIONS.json.
-/

open Sys2Proof Sys2Proof.Machine

/-! ## Encoding (30_encoding.md) -/

/-- Every instruction is well formed and its word decodes to it: no operand bit is dropped (R101 to R105, R110 to R112). -/
def Obligations.EncodedInstructionDecodesToItself : Prop :=
  ∀ i : Instr, i.wf = true ∧ decode (encode i) = .ok i

/-- A word that decodes to an instruction is that instruction's encoding, so no second word means the same (R103). -/
def Obligations.DecodedWordIsTheEncoding : Prop :=
  ∀ (c : CodeWord) (i : Instr), decode c = .ok i → encode i = c

/-- Words written out in 95_test_vectors.md section 3 (V-E1, V-E6, V-E10, V-E14, V-B3, V-B8) decode to what they stand for. -/
def Obligations.SpecVectorsDecode : Prop :=
  decode (.cmd32 0x00040100#32) = .ok (.read8 0x01 0x00) ∧
  decode (.cmd32 0x000C0100#32) = .ok (.write8 0x01 0x00) ∧
  decode (.cmd32 0x000B0040#32) = .ok (.write64 0x00 0x40) ∧
  decode (.cmd32 0x0004ABCD#32) = .ok (.read8 0xAB 0xCD) ∧
  decode (.bus16 .page 0x0201#16) = .ok (.busPageSelect 0x02) ∧
  decode (.bus16 .addr 0x1002#16) = .ok (.busAddrRead 0x10) ∧
  decode (.bus16 .addr 0x1001#16) = .ok (.busAddrWrite 0x10)

/-- R106: which command words are illegal, and that one presented while `cmd_ready` = 1 is accepted and finishes at once:
STATUS = ILLEGAL, DONE = 1, PHASE = IDLE, no bus transaction, PAGE_CACHE unchanged, the latches take its fields. Every other
word is one of the ten commands. That the host's next line stands at the port right after the accept is the model's choice (log
entry 11). -/
def Obligations.IllegalWordFinishesAtOnce : Prop :=
  ∀ w : CmdWord,
    if w.extractLsb' 20 12 ≠ 0#12 ∨ (w.getLsbD 18 = true ∧ w.extractLsb' 16 2 ≠ 0#2) then
      ∀ s : State, s.cmdReady = true → s.port.valid = true → s.port.cmd = w →
        ∃ t, step s = .next t ∧ t.status = .illegal ∧ t.done = true ∧ t.phase = .idle ∧ t.trace = s.trace ∧
          t.cache = s.cache ∧ t.env = s.env ∧ t.holds (CmdFields.ofWord w) ∧
          t.port = s.presentNext.port ∧ t.program = s.presentNext.program
    else ∃ i, decode (.cmd32 w) = .ok i ∧ i.isCommand = true

/-- R110, R111, R112 bit by bit: the word of bus.page_select has PAGE in [15:8], 0 in [7:1], 1 in [0]; that of bus.addr_read
REG, 0 in [7:2], READ 1, WRITE 0; that of bus.addr_write REG, 0, 0, 1; and these are the words the block writes. -/
def Obligations.BusWordFieldsAsTabled : Prop :=
  ∀ a : BitVec 8,
    (let w := pageSelectWord a
     encode (.busPageSelect a) = .bus16 .page w ∧ w.extractLsb' 8 8 = a ∧ w.extractLsb' 1 7 = 0#7 ∧ w.getLsbD 0 = true) ∧
    (let w := addrWord a Config.opRead
     encode (.busAddrRead a) = .bus16 .addr w ∧ w.extractLsb' 8 8 = a ∧ w.extractLsb' 2 6 = 0#6 ∧
       w.getLsbD 1 = true ∧ w.getLsbD 0 = false) ∧
    (let w := addrWord a Config.opWrite
     encode (.busAddrWrite a) = .bus16 .addr w ∧ w.extractLsb' 8 8 = a ∧ w.extractLsb' 2 6 = 0#6 ∧
       w.getLsbD 1 = false ∧ w.getLsbD 0 = true)

/-- Under R10's constraints the six bus register numbers are pairwise distinct and slot i is number REG_DATA0 + i, with no
wrap. -/
def Obligations.SixBusNumbersDistinct : Prop :=
  ∀ c : BusNumbers, c.legal = true →
    (∀ i : BitVec 3, i.toNat < 4 → ((BusReg.data i).number c).toNat = c.regData0.toNat + i.toNat) ∧
    (∀ q r : BusReg, (∀ i, q = .data i → i.toNat < 4) → (∀ i, r = .data i → i.toNat < 4) →
      q.number c = r.number c → q = r)

/-! ## What a step acts on -/

/-- A decoded command presented while `cmd_ready` = 1 is what the step runs (R201). -/
def Obligations.StepRunsPresentedCommand : Prop :=
  ∀ (s : State) (i : Instr), s.cmdReady = true → s.port.valid = true → decode (.cmd32 s.port.cmd) = .ok i →
    step s = exec i s

/-- In SELECT on a miss, and in ADDR, the step runs the bus word the sequencer writes there (R150), unless `rst` is asserted. That these rows
are the three bus words run as instructions is the model's choice (log entry 16). -/
def Obligations.StepRunsSequencerBusWord : Prop :=
  ∀ s : State, s.rstAsserted = false →
    (s.phase = .select → s.cache ≠ ⟨true, s.lPage⟩ → step s = exec (.busPageSelect s.lPage) s) ∧
    (s.phase = .addr → s.lDir = false → step s = exec (.busAddrRead s.lReg) s) ∧
    (s.phase = .addr → s.lDir = true → step s = exec (.busAddrWrite s.lReg) s)

/-- R40: while an access is in flight or `rst` is asserted, nothing happens to a presented command. -/
def Obligations.CommandWaitsWhileNotReady : Prop :=
  ∀ (s : State) (i : Instr), i.isCommand = true → s.cmdReady = false → exec i s = .next s

/-- R41 with a transport that has not answered yet (log entries 7, 12): the latches hold the command, L_WDATA the port's value for a write,
DONE, SLOT_IDX and POLL_CNT are 0; STATUS, ERR_INFO and PAGE_CACHE are kept, nothing was issued; a write stands in STAGE, a read
in SELECT, or in ADDR when the cache already holds its page. -/
def Obligations.AcceptLatchesTheCommand : Prop :=
  ∀ (s : State) (i : Instr) (f : CmdFields), i.fields? = some f → s.phase = .idle → s.env = [] →
    ∃ t, exec i s = .next t ∧ t.holds f ∧ (f.dir = true → t.lWdata = s.port.wdata) ∧ t.done = false ∧ t.slotIdx = 0 ∧
      t.pollCnt = 0 ∧ t.status = s.status ∧ t.errInfo = s.errInfo ∧ t.cache = s.cache ∧ t.trace = s.trace ∧ t.env = [] ∧
      t.phase = (if f.dir = true then .stage else if s.cache = ⟨true, f.page⟩ then .addr else .select)

/-! ## Reads and writes of the page cache (40_page_select.md) -/

/-- R131: on a hit (VALID = 1 and PAGE = p) the page select issues nothing and changes no register; the sequencer goes on to
ADDR. With the sentinel there is no hit for any page, whatever the PAGE field holds: the step is the page-select write.
That the hit is a step of its own, and the write the instruction bus.page_select, is the model's choice (log entries 13, 16). -/
def Obligations.PageSelectHitIssuesNothing : Prop :=
  ∀ s : State, s.rstAsserted = false → s.phase = .select →
    if s.cache.valid = true ∧ s.cache.page = s.lPage then step s = .next { s with phase := .addr }
    else step s = exec (.busPageSelect s.lPage) s

/-- R132: the page-select write answered ok writes PAGE_CACHE <- (1, page) and the sequencer goes on to ADDR; the transaction is
W(PAGE, (page << 8) | 1); nothing else changes. That PHASE is not looked at is the model's choice (log entry 16). -/
def Obligations.PageSelectWriteSetsCache : Prop :=
  ∀ (s : State) (p : Page) (x : BusWord) (rest : List EnvEvent), s.env = .rsp (.ok x) :: rest →
    exec (.busPageSelect p) s = .next { s with
      env := rest, cache := ⟨true, p⟩, phase := .addr,
      trace := s.trace ++ [.w .page ((p.setWidth 16 <<< 8) ||| 0x0001#16)] }

/-- R133: the page-select write answered err(e) leaves PAGE_CACHE as it was, whatever it was, and ends the access with
TransportError(e): that write is the last transaction. That PHASE is not looked at is the model's choice (log entry 16). -/
def Obligations.PageSelectFailureKeepsCache : Prop :=
  ∀ (s : State) (p : Page) (e : ErrT) (rest : List EnvEvent), s.env = .rsp (.err e) :: rest →
    ∃ t, exec (.busPageSelect p) s = .next t ∧ t.cache = s.cache ∧ t.phase = .idle ∧ t.done = true ∧
      t.status = .transport ∧ t.errInfo = e ∧ t.env = rest ∧
      t.trace = s.trace ++ [.wErr .page (pageSelectWord p) e] ∧
      t.slotIdx = s.slotIdx ∧ t.pollCnt = s.pollCnt ∧ t.lDir = s.lDir ∧ t.lByte = s.lByte ∧ t.lNslot = s.lNslot ∧
      t.lPage = s.lPage ∧ t.lReg = s.lReg ∧ t.lWdata = s.lWdata ∧ t.port = s.port ∧ t.program = s.program ∧
      t.sleeps = s.sleeps

/-- R23: exactly two events write PAGE_CACHE, a page-select write that returned ok and a reset. Whatever a step does, the cache
after it is the cache before it with just those events of the step's trace applied. -/
def Obligations.OnlySelectAndResetWriteCache : Prop :=
  ∀ s t : State, step s = .next t → ∃ new, t.trace = s.trace ++ new ∧ t.cache = new.foldl cacheAfter s.cache

/-- R135: from the sentinel no command touches the address register before its own page-select write returned ok, whatever its
page (0x00 and 0xFF included) and whatever the PAGE field holds. -/
def Obligations.SentinelForcesPageSelect : Prop :=
  ∀ (s : State) (i : Instr) (f : CmdFields), i.fields? = some f → s.cmdReady = true → s.cache.valid = false →
    ∃ t new, exec i s = .next t ∧ t.trace = s.trace ++ new ∧
      ∀ pre e post, new = pre ++ e :: post → (e.polls = true ∨ e.writes .addr = true) →
        .w .page (pageSelectWord f.page) ∈ pre

/-- R136: two successful accesses in a row issue one page-select write in all when they name the same page and two when they
name different pages, if the cache held neither page before; none, when it held the page both name. -/
def Obligations.PageSelectElided : Prop :=
  ∀ (s t u : State) (i j : Instr) (f g : CmdFields) (new : List BusEvent),
    i.fields? = some f → j.fields? = some g → s.cmdReady = true → t.cmdReady = true →
    exec i s = .next t → t.finished = true → t.status = .ok →
    exec j t = .next u → u.finished = true → u.status = .ok → u.trace = s.trace ++ new →
    (s.cache ≠ ⟨true, f.page⟩ → s.cache ≠ ⟨true, g.page⟩ →
      new.countP BusEvent.selects = if f.page = g.page then 1 else 2) ∧
    (s.cache = ⟨true, f.page⟩ → f.page = g.page → new.countP BusEvent.selects = 0)

/-! ## Trigger and poll (41_sequencer.md) -/

/-- R142: the address word of a read answered ok starts polling with POLL_CNT = 0; the transaction is W(ADDR, (reg << 8) | 2);
nothing else changes. That PHASE is not looked at is the model's choice (log entry 16). -/
def Obligations.AddrReadWordStartsPolling : Prop :=
  ∀ (s : State) (reg : LReg) (x : BusWord) (rest : List EnvEvent), s.env = .rsp (.ok x) :: rest →
    exec (.busAddrRead reg) s = .next { s with
      env := rest, pollCnt := 0, phase := .poll,
      trace := s.trace ++ [.w .addr ((reg.setWidth 16 <<< 8) ||| 0x0002#16)] }

/-- R142: the address word of a write answered ok starts polling with POLL_CNT = 0; the transaction is
W(ADDR, (reg << 8) | 1); nothing else changes. That PHASE is not looked at is the model's choice (log entry 16). -/
def Obligations.AddrWriteWordStartsPolling : Prop :=
  ∀ (s : State) (reg : LReg) (x : BusWord) (rest : List EnvEvent), s.env = .rsp (.ok x) :: rest →
    exec (.busAddrWrite reg) s = .next { s with
      env := rest, pollCnt := 0, phase := .poll,
      trace := s.trace ++ [.w .addr ((reg.setWidth 16 <<< 8) ||| 0x0001#16)] }

/-- R142: an address word answered err(e) ends the access with TransportError(e); no poll, PAGE_CACHE kept. That PHASE is not
looked at is the model's choice (log entry 16). -/
def Obligations.AddrWordFailureEndsAccess : Prop :=
  ∀ (s : State) (i : Instr) (reg : LReg) (op : BusWord) (e : ErrT) (rest : List EnvEvent),
    (i = .busAddrRead reg ∧ op = Config.opRead) ∨ (i = .busAddrWrite reg ∧ op = Config.opWrite) →
    s.env = .rsp (.err e) :: rest →
    ∃ t, exec i s = .next t ∧ t.cache = s.cache ∧ t.phase = .idle ∧ t.done = true ∧ t.status = .transport ∧
      t.errInfo = e ∧ t.env = rest ∧ t.trace = s.trace ++ [.wErr .addr (addrWord reg op) e] ∧ t.pollCnt = s.pollCnt ∧
      t.slotIdx = s.slotIdx ∧ t.lDir = s.lDir ∧ t.lByte = s.lByte ∧ t.lNslot = s.lNslot ∧ t.lPage = s.lPage ∧
      t.lReg = s.lReg ∧ t.lWdata = s.lWdata ∧ t.port = s.port ∧ t.program = s.program ∧ t.sleeps = s.sleeps

/-- R145: a poll answer is complete exactly when bits [1] and [0] are both clear, for either direction: then a write is finished
with OK and a read goes on to drain from slot 0. Otherwise it is pending: POLL_CNT counts it, and the fifth ends the access with
TimeoutError (R146). -/
def Obligations.PollAnswerDecides : Prop :=
  ∀ (s : State) (v : BusWord) (rest : List EnvEvent),
    s.phase = .poll → s.pollCnt.toNat < 5 → s.env = .rsp (.ok v) :: rest →
    ∃ t, step s = .next t ∧ t.env = rest ∧ t.trace = s.trace ++ [.r .addr v] ∧ t.cache = s.cache ∧ t.lDir = s.lDir ∧
      t.lByte = s.lByte ∧ t.lNslot = s.lNslot ∧ t.lPage = s.lPage ∧ t.lReg = s.lReg ∧ t.lWdata = s.lWdata ∧
      t.port = s.port ∧ t.program = s.program ∧
      if v.getLsbD 1 = false ∧ v.getLsbD 0 = false then
        t.pollCnt = s.pollCnt ∧ t.sleeps = s.sleeps ∧
          if s.lDir = true then t.phase = .idle ∧ t.done = true ∧ t.status = .ok
          else t.phase = .drain ∧ t.slotIdx = 0 ∧ t.done = s.done ∧ t.status = s.status
      else
        t.pollCnt = s.pollCnt + 1 ∧
          if s.pollCnt.toNat = 4 then t.phase = .idle ∧ t.done = true ∧ t.status = .timeout
          else t.phase = .poll ∧ t.done = s.done ∧ t.status = s.status ∧ t.sleeps = s.sleeps + 1

/-- R144: a poll that returns err(e) ends the access at once with TransportError(e) and is not counted, also the fifth. -/
def Obligations.PollErrorEndsAccess : Prop :=
  ∀ (s : State) (e : ErrT) (rest : List EnvEvent), s.phase = .poll → s.env = .rsp (.err e) :: rest →
    ∃ t, step s = .next t ∧ t.phase = .idle ∧ t.done = true ∧ t.status = .transport ∧ t.errInfo = e ∧
      t.pollCnt = s.pollCnt ∧ t.cache = s.cache ∧ t.env = rest ∧ t.trace = s.trace ++ [.rErr .addr e] ∧
      t.slotIdx = s.slotIdx ∧ t.lDir = s.lDir ∧ t.lByte = s.lByte ∧ t.lNslot = s.lNslot ∧ t.lPage = s.lPage ∧
      t.lReg = s.lReg ∧ t.lWdata = s.lWdata ∧ t.port = s.port ∧ t.program = s.program ∧ t.sleeps = s.sleeps

/-- R146: a command whose staging, page select and trigger are answered ok and whose five polls all see pending fails with
TimeoutError after exactly those five polls: no sixth, no slot read. PAGE_CACHE holds the page. The host's next line at the port is log entry 11. -/
def Obligations.FivePendingPollsTimeOut : Prop :=
  ∀ (s : State) (i : Instr) (f : CmdFields) (staged : List BusWord) (x y : BusWord) (pend : List BusWord)
    (rest : List EnvEvent),
    i.fields? = some f → s.cmdReady = true →
    staged.length = (if f.dir = true then f.nslot.toNat + 1 else 0) →
    pend.length = 5 → (∀ w ∈ pend, pollComplete w = false) →
    s.env = oks staged ++ s.selectAnswer f.page x ++ oks (y :: pend) ++ rest →
    ∃ t before, exec i s = .next t ∧ s.finishedFrom t f .timeout ∧ t.pollCnt = 5 ∧ t.cache = ⟨true, f.page⟩ ∧ t.env = rest ∧
      t.trace = s.trace ++ before ++ s.selectTrace f.page ++ [.w .addr (addrWord f.reg (opcodeOf f.dir))]
        ++ pend.map (.r .addr) ∧
      before.length = staged.length ∧ ∀ e ∈ before, e.stages = true

/-- TimeoutError arises nowhere else (R146, R223): a command that finishes with it made exactly five polls, its last
transactions, all pending, and no transaction of it failed. -/
def Obligations.TimeoutMeansFivePendingPolls : Prop :=
  ∀ (s : State) (i : Instr) (f : CmdFields), i.fields? = some f → s.cmdReady = true →
    ∃ t new, exec i s = .next t ∧ t.trace = s.trace ++ new ∧
      (t.finished = true → t.status = .timeout →
        ∃ (before : List BusEvent) (pend : List BusWord), new = before ++ pend.map (.r .addr) ∧ pend.length = 5 ∧ (∀ w ∈ pend, pollComplete w = false) ∧
          ∀ e ∈ before, e.polls = false ∧ e.failed = false)

/-! ## Read commands (42_read.md) -/

/-- R163: read8. The low 8 bits of slot 0, zero-extended; the trace is page select (on a miss), trigger, polls, slot 0. The host's next line at the port is log entry 11. -/
def Obligations.Read8Result : Prop :=
  ∀ (s : State) (page : Page) (reg : LReg) (x y : BusWord) (pend : List BusWord) (v v0 : BusWord) (rest : List EnvEvent),
    s.phase = .idle → CompletesAfter pend v → s.env = s.runOpAnswers page x y pend v ++ oks [v0] ++ rest →
    ∃ t, exec (.read8 page reg) s = .next t ∧ s.finishedFrom t ⟨0, false, true, 0, page, reg⟩ .ok ∧
      t.rdata = (v0.extractLsb' 0 8).setWidth 64 ∧ t.cache = ⟨true, page⟩ ∧ t.env = rest ∧
      t.trace = s.trace ++ s.runOpTrace page reg 0x0002#16 pend v ++ [.r (.data 0) v0] ∧
      t.slotIdx = 1 ∧ t.pollCnt.toNat = pend.length ∧ t.sleeps = s.sleeps + pend.length

/-- R164: read16. Slot 0, zero-extended, no mask. The host's next line at the port is log entry 11. -/
def Obligations.Read16Result : Prop :=
  ∀ (s : State) (page : Page) (reg : LReg) (x y : BusWord) (pend : List BusWord) (v v0 : BusWord) (rest : List EnvEvent),
    s.phase = .idle → CompletesAfter pend v → s.env = s.runOpAnswers page x y pend v ++ oks [v0] ++ rest →
    ∃ t, exec (.read16 page reg) s = .next t ∧ s.finishedFrom t ⟨0, false, false, 0, page, reg⟩ .ok ∧
      t.rdata = v0.setWidth 64 ∧ t.cache = ⟨true, page⟩ ∧ t.env = rest ∧
      t.trace = s.trace ++ s.runOpTrace page reg 0x0002#16 pend v ++ [.r (.data 0) v0] ∧
      t.slotIdx = 1 ∧ t.pollCnt.toNat = pend.length ∧ t.sleeps = s.sleeps + pend.length

/-- R165: read32. Slot 1 above slot 0, zero-extended; slots read in ascending order. The host's next line at the port is log entry 11. -/
def Obligations.Read32Result : Prop :=
  ∀ (s : State) (page : Page) (reg : LReg) (x y : BusWord) (pend : List BusWord) (v v0 v1 : BusWord)
    (rest : List EnvEvent),
    s.phase = .idle → CompletesAfter pend v → s.env = s.runOpAnswers page x y pend v ++ oks [v0, v1] ++ rest →
    ∃ t, exec (.read32 page reg) s = .next t ∧ s.finishedFrom t ⟨0, false, false, 1, page, reg⟩ .ok ∧
      t.rdata = (v1 ++ v0).setWidth 64 ∧ t.cache = ⟨true, page⟩ ∧ t.env = rest ∧
      t.trace = s.trace ++ s.runOpTrace page reg 0x0002#16 pend v ++ [.r (.data 0) v0, .r (.data 1) v1] ∧
      t.slotIdx = 2 ∧ t.pollCnt.toNat = pend.length ∧ t.sleeps = s.sleeps + pend.length

/-- R166: read48. Slots 2, 1, 0 from high to low, zero-extended; slot 3 is not read. The host's next line at the port is log entry 11. -/
def Obligations.Read48Result : Prop :=
  ∀ (s : State) (page : Page) (reg : LReg) (x y : BusWord) (pend : List BusWord) (v v0 v1 v2 : BusWord)
    (rest : List EnvEvent),
    s.phase = .idle → CompletesAfter pend v → s.env = s.runOpAnswers page x y pend v ++ oks [v0, v1, v2] ++ rest →
    ∃ t, exec (.read48 page reg) s = .next t ∧ s.finishedFrom t ⟨0, false, false, 2, page, reg⟩ .ok ∧
      t.rdata = (v2 ++ v1 ++ v0).setWidth 64 ∧ t.cache = ⟨true, page⟩ ∧ t.env = rest ∧
      t.trace = s.trace ++ s.runOpTrace page reg 0x0002#16 pend v
        ++ [.r (.data 0) v0, .r (.data 1) v1, .r (.data 2) v2] ∧
      t.slotIdx = 3 ∧ t.pollCnt.toNat = pend.length ∧ t.sleeps = s.sleeps + pend.length

/-- R167: read64. Slots 3, 2, 1, 0 from high to low. The host's next line at the port is log entry 11. -/
def Obligations.Read64Result : Prop :=
  ∀ (s : State) (page : Page) (reg : LReg) (x y : BusWord) (pend : List BusWord) (v v0 v1 v2 v3 : BusWord)
    (rest : List EnvEvent),
    s.phase = .idle → CompletesAfter pend v → s.env = s.runOpAnswers page x y pend v ++ oks [v0, v1, v2, v3] ++ rest →
    ∃ t, exec (.read64 page reg) s = .next t ∧ s.finishedFrom t ⟨0, false, false, 3, page, reg⟩ .ok ∧
      t.rdata = v3 ++ v2 ++ v1 ++ v0 ∧ t.cache = ⟨true, page⟩ ∧ t.env = rest ∧
      t.trace = s.trace ++ s.runOpTrace page reg 0x0002#16 pend v
        ++ [.r (.data 0) v0, .r (.data 1) v1, .r (.data 2) v2, .r (.data 3) v3] ∧
      t.slotIdx = 4 ∧ t.pollCnt.toNat = pend.length ∧ t.sleeps = s.sleeps + pend.length

/-! ## Write commands (43_write.md) -/

/-- R183: write8. Slot 0 is staged with value[15:0], all 16 bits; then page select (on a miss), trigger, polls. The host's next line at the port is log entry 11. -/
def Obligations.Write8Result : Prop :=
  ∀ (s : State) (page : Page) (reg : LReg) (a0 x y : BusWord) (pend : List BusWord) (v : BusWord) (rest : List EnvEvent),
    s.phase = .idle → CompletesAfter pend v → s.env = oks [a0] ++ s.runOpAnswers page x y pend v ++ rest →
    ∃ t, exec (.write8 page reg) s = .next t ∧ s.finishedFrom t ⟨0, true, true, 0, page, reg⟩ .ok ∧
      t.lWdata = s.port.wdata ∧ t.cache = ⟨true, page⟩ ∧ t.env = rest ∧
      t.trace = s.trace ++ [.w (.data 0) (s.port.wdata.extractLsb' 0 16)] ++ s.runOpTrace page reg 0x0001#16 pend v ∧
      t.slotIdx = 1 ∧ t.pollCnt.toNat = pend.length ∧ t.sleeps = s.sleeps + pend.length

/-- R184: write16. Slot 0 is staged with value[15:0]; value[63:16] is ignored. The host's next line at the port is log entry 11. -/
def Obligations.Write16Result : Prop :=
  ∀ (s : State) (page : Page) (reg : LReg) (a0 x y : BusWord) (pend : List BusWord) (v : BusWord) (rest : List EnvEvent),
    s.phase = .idle → CompletesAfter pend v → s.env = oks [a0] ++ s.runOpAnswers page x y pend v ++ rest →
    ∃ t, exec (.write16 page reg) s = .next t ∧ s.finishedFrom t ⟨0, true, false, 0, page, reg⟩ .ok ∧
      t.lWdata = s.port.wdata ∧ t.cache = ⟨true, page⟩ ∧ t.env = rest ∧
      t.trace = s.trace ++ [.w (.data 0) (s.port.wdata.extractLsb' 0 16)] ++ s.runOpTrace page reg 0x0001#16 pend v ∧
      t.slotIdx = 1 ∧ t.pollCnt.toNat = pend.length ∧ t.sleeps = s.sleeps + pend.length

/-- R185: write32. Slots 0 and 1, in that order, before everything else. The host's next line at the port is log entry 11. -/
def Obligations.Write32Result : Prop :=
  ∀ (s : State) (page : Page) (reg : LReg) (a0 a1 x y : BusWord) (pend : List BusWord) (v : BusWord)
    (rest : List EnvEvent),
    s.phase = .idle → CompletesAfter pend v → s.env = oks [a0, a1] ++ s.runOpAnswers page x y pend v ++ rest →
    ∃ t, exec (.write32 page reg) s = .next t ∧ s.finishedFrom t ⟨0, true, false, 1, page, reg⟩ .ok ∧
      t.lWdata = s.port.wdata ∧ t.cache = ⟨true, page⟩ ∧ t.env = rest ∧
      t.trace = s.trace ++ [.w (.data 0) (s.port.wdata.extractLsb' 0 16), .w (.data 1) (s.port.wdata.extractLsb' 16 16)]
        ++ s.runOpTrace page reg 0x0001#16 pend v ∧
      t.slotIdx = 2 ∧ t.pollCnt.toNat = pend.length ∧ t.sleeps = s.sleeps + pend.length

/-- R186: write48. Slots 0, 1, 2; value[63:48] is ignored and slot 3 is not written. The host's next line at the port is log entry 11. -/
def Obligations.Write48Result : Prop :=
  ∀ (s : State) (page : Page) (reg : LReg) (a0 a1 a2 x y : BusWord) (pend : List BusWord) (v : BusWord)
    (rest : List EnvEvent),
    s.phase = .idle → CompletesAfter pend v → s.env = oks [a0, a1, a2] ++ s.runOpAnswers page x y pend v ++ rest →
    ∃ t, exec (.write48 page reg) s = .next t ∧ s.finishedFrom t ⟨0, true, false, 2, page, reg⟩ .ok ∧
      t.lWdata = s.port.wdata ∧ t.cache = ⟨true, page⟩ ∧ t.env = rest ∧
      t.trace = s.trace ++ [.w (.data 0) (s.port.wdata.extractLsb' 0 16), .w (.data 1) (s.port.wdata.extractLsb' 16 16),
          .w (.data 2) (s.port.wdata.extractLsb' 32 16)]
        ++ s.runOpTrace page reg 0x0001#16 pend v ∧
      t.slotIdx = 3 ∧ t.pollCnt.toNat = pend.length ∧ t.sleeps = s.sleeps + pend.length

/-- R187: write64. Slots 0, 1, 2, 3, zero words included. The host's next line at the port is log entry 11. -/
def Obligations.Write64Result : Prop :=
  ∀ (s : State) (page : Page) (reg : LReg) (a0 a1 a2 a3 x y : BusWord) (pend : List BusWord) (v : BusWord)
    (rest : List EnvEvent),
    s.phase = .idle → CompletesAfter pend v → s.env = oks [a0, a1, a2, a3] ++ s.runOpAnswers page x y pend v ++ rest →
    ∃ t, exec (.write64 page reg) s = .next t ∧ s.finishedFrom t ⟨0, true, false, 3, page, reg⟩ .ok ∧
      t.lWdata = s.port.wdata ∧ t.cache = ⟨true, page⟩ ∧ t.env = rest ∧
      t.trace = s.trace ++ [.w (.data 0) (s.port.wdata.extractLsb' 0 16), .w (.data 1) (s.port.wdata.extractLsb' 16 16),
          .w (.data 2) (s.port.wdata.extractLsb' 32 16), .w (.data 3) (s.port.wdata.extractLsb' 48 16)]
        ++ s.runOpTrace page reg 0x0001#16 pend v ∧
      t.slotIdx = 4 ∧ t.pollCnt.toNat = pend.length ∧ t.sleeps = s.sleeps + pend.length

/-- R182 (b): a staging write that returns err(e) ends a write command at once: the slots before it were staged, no later slot,
no page select and no address word is written, PAGE_CACHE is untouched. The host's next line at the port is log entry 11. -/
def Obligations.StagingFailureAbortsBeforeTrigger : Prop :=
  ∀ (s : State) (i : Instr) (f : CmdFields) (staged : List BusWord) (e : ErrT) (rest : List EnvEvent),
    i.fields? = some f → f.dir = true → s.phase = .idle → staged.length ≤ f.nslot.toNat →
    s.env = oks staged ++ .rsp (.err e) :: rest →
    ∃ t before, exec i s = .next t ∧ s.finishedFrom t f .transport ∧ t.errInfo = e ∧ t.cache = s.cache ∧ t.env = rest ∧
      t.slotIdx.toNat = staged.length ∧ t.pollCnt = 0 ∧ before.length = staged.length ∧
      (∀ k (h : k < before.length), before[k] =
        .w (.data (BitVec.ofNat 3 k)) (s.port.wdata.extractLsb' (16 * k) 16)) ∧
      t.trace = s.trace ++ before
        ++ [.wErr (.data (BitVec.ofNat 3 staged.length)) (s.port.wdata.extractLsb' (16 * staged.length) 16) e]

/-- R162 (d): a slot read that returns err(e) ends a read command at once with TransportError(e): no later slot is read, and
PAGE_CACHE keeps the page. The host's next line at the port is log entry 11. -/
def Obligations.DrainFailureEndsRead : Prop :=
  ∀ (s : State) (i : Instr) (f : CmdFields) (x y : BusWord) (pend : List BusWord) (v : BusWord) (drained : List BusWord)
    (e : ErrT) (rest : List EnvEvent),
    i.fields? = some f → f.dir = false → s.phase = .idle → CompletesAfter pend v → drained.length ≤ f.nslot.toNat →
    s.env = s.runOpAnswers f.page x y pend v ++ oks drained ++ .rsp (.err e) :: rest →
    ∃ t reads, exec i s = .next t ∧ s.finishedFrom t f .transport ∧ t.errInfo = e ∧ t.cache = ⟨true, f.page⟩ ∧
      t.env = rest ∧ t.slotIdx.toNat = drained.length ∧ reads.length = drained.length ∧
      (∀ k (h : k < reads.length), ∃ w, drained[k]? = some w ∧ reads[k] = .r (.data (BitVec.ofNat 3 k)) w) ∧
      t.trace = s.trace ++ s.runOpTrace f.page f.reg 0x0002#16 pend v ++ reads
        ++ [.rErr (.data (BitVec.ofNat 3 drained.length)) e]

/-! ## The whole access -/

/-- R87, R69: before any write to PAGE or ADDR in a write command's trace every slot of its width was written, with its word of
the value, and returned ok; and no command stages a slot after a page-select write, an address word or a poll; a read stages
none at all. -/
def Obligations.StagingComesFirst : Prop :=
  ∀ (s : State) (i : Instr) (f : CmdFields), i.fields? = some f → s.cmdReady = true →
    ∃ t new, exec i s = .next t ∧ t.trace = s.trace ++ new ∧ (f.dir = false → ∀ e ∈ new, e.stages = false) ∧
      ∀ pre e post, new = pre ++ e :: post →
        ((e.writes .page = true ∨ e.writes .addr = true ∨ e.polls = true) → ∀ d ∈ post, d.stages = false) ∧
        ((e.writes .page = true ∨ e.writes .addr = true) → f.dir = true →
          ∀ k : BitVec 3, k.toNat < f.nslot.toNat + 1 →
            .w (.data k) (s.port.wdata.extractLsb' (16 * k.toNat) 16) ∈ pre)

/-- R88, R69: no slot is read until a poll has returned a word with both opcode bits clear; a write reads none at all. -/
def Obligations.DrainFollowsCompletion : Prop :=
  ∀ (s : State) (i : Instr) (f : CmdFields), i.fields? = some f → s.cmdReady = true →
    ∃ t new, exec i s = .next t ∧ t.trace = s.trace ++ new ∧ (f.dir = true → ∀ e ∈ new, e.drains = false) ∧
      ∀ pre e post, new = pre ++ e :: post → e.drains = true → ∃ c ∈ pre, c.completes = true

/-- R152: no command makes more than eleven bus transactions, at most one of them a page-select write and one a trigger; and the
table: how many a finished command made, by its outcome. `staged` is the slots a write stages, `m` is 1 when the page select
misses, `j` the polls made. -/
def Obligations.TransactionCountsAsTabled : Prop :=
  ∀ (s : State) (i : Instr) (f : CmdFields), i.fields? = some f → s.cmdReady = true →
    ∃ t new, exec i s = .next t ∧ t.trace = s.trace ++ new ∧ new.length ≤ 11 ∧
      new.countP (BusEvent.writes .addr) ≤ 1 ∧ new.countP (BusEvent.writes .page) ≤ 1 ∧
      (let nslots := f.nslot.toNat + 1
       let staged := if f.dir = true then nslots else 0
       let m := if s.cache = ⟨true, f.page⟩ then 0 else 1
       let j := new.countP BusEvent.polls
       t.finished = true →
        (t.status = .ok → 1 ≤ j ∧ j ≤ 5 ∧ new.length = nslots + m + 1 + j) ∧
        (t.status = .timeout → j = 5 ∧ new.length = staged + m + 1 + 5) ∧
        (∀ v e, new.getLast? = some (.wErr .page v e) → new.length = staged + 1) ∧
        (∀ v e, new.getLast? = some (.wErr .addr v e) → new.length = staged + m + 1) ∧
        (∀ e, new.getLast? = some (.rErr .addr e) → 1 ≤ j ∧ j ≤ 5 ∧ new.length = staged + m + 1 + j) ∧
        (∀ k v e, new.getLast? = some (.wErr (.data k) v e) → f.dir = true ∧ new.length = k.toNat + 1) ∧
        (∀ k e, new.getLast? = some (.rErr (.data k) e) → f.dir = false ∧ new.length = m + 1 + j + k.toNat + 1))

/-- An access ends whenever the transport answers (R152): eleven answers, none of them silence or reset, are enough to finish
any command. -/
def Obligations.AnsweredAccessFinishes : Prop :=
  ∀ (s : State) (i : Instr) (f : CmdFields) (l : List BusRsp) (rest : List EnvEvent),
    i.fields? = some f → s.phase = .idle → l.length = 11 → s.env = answered l ++ rest →
    ∃ t, exec i s = .next t ∧ t.finished = true ∧ t.status ≠ .illegal ∧ t.holds f

/-- R233: a command that finishes with OK had every transaction answered ok, a poll of it saw completion, and every slot of its
width was exchanged: written by a write, read by a read. -/
def Obligations.SuccessMeansEverythingAnswered : Prop :=
  ∀ (s : State) (i : Instr) (f : CmdFields), i.fields? = some f → s.cmdReady = true →
    ∃ t new, exec i s = .next t ∧ t.trace = s.trace ++ new ∧
      (t.finished = true → t.status = .ok → (∀ e ∈ new, e.failed = false) ∧ (∃ c ∈ new, c.completes = true) ∧
        ∀ k : BitVec 3, k.toNat < f.nslot.toNat + 1 →
          ∃ v, (if f.dir = true then BusEvent.w (.data k) v else .r (.data k) v) ∈ new)

/-- R221, R230: a command that finishes with TransportError made its failing transaction last, every one before it returned
ok, and ERR_INFO is that transaction's error, verbatim. -/
def Obligations.TransportErrorIsTheLastTransaction : Prop :=
  ∀ (s : State) (i : Instr) (f : CmdFields), i.fields? = some f → s.cmdReady = true →
    ∃ t new, exec i s = .next t ∧ t.trace = s.trace ++ new ∧
      (t.finished = true → t.status = .transport →
        ∃ before r v, (new = before ++ [.wErr r v t.errInfo] ∨ new = before ++ [.rErr r t.errInfo]) ∧
          ∀ e ∈ before, e.failed = false)

/-- R137: once the page-select write of an access returned ok, PAGE_CACHE holds the page, whatever happens later in the access
short of a reset; and an access whose page select did not return ok leaves PAGE_CACHE as it was. -/
def Obligations.CacheKeptThroughLaterFailure : Prop :=
  ∀ (s : State) (i : Instr) (f : CmdFields), i.fields? = some f → s.cmdReady = true →
    ∃ t new, exec i s = .next t ∧ t.trace = s.trace ++ new ∧
      (.rst ∉ new →
        t.cache = if BusEvent.w .page (pageSelectWord f.page) ∈ new then ⟨true, f.page⟩ else s.cache)

/-- R113: whatever a step does, every word it writes to REG_PAGE has the enable bit set and bits [7:1] clear, and every word it
writes to REG_ADDR has exactly one opcode bit set and bits [7:2] clear. -/
def Obligations.OnlyTabledWordsAreWritten : Prop :=
  ∀ s t : State, step s = .next t → ∃ new, t.trace = s.trace ++ new ∧ ∀ e ∈ new, e.wordWellFormed = true

/-- R150, R44, R46: in a state with an access in flight the transaction the block asks for is the one its step makes: with the
answer at hand the trace grows by exactly that transaction with that answer and the answer is taken; where it asks for none, by
nothing. -/
def Obligations.StepMakesTheRequestedTransaction : Prop :=
  ∀ (s : State) (a : BusRsp) (rest : List EnvEvent), s.phase ≠ .idle → s.env = .rsp a :: rest →
    ∃ t, step s = .next t ∧
      match s.transaction? with
      | some x => t.trace = s.trace ++ [x.event a] ∧ t.env = rest
      | none => t.trace = s.trace ∧ t.env = s.env

/-- R44, R63: in every state the invariant allows, the transaction the block asks for is in the map (it writes PAGE, ADDR or one
of the four slots, reads ADDR or one of the four slots), its request goes to PSEUDO_ADDR, and its register number is one of the
six; while `rst` is asserted, and in IDLE, it asks for none (R43). -/
def Obligations.OnlyMappedRegistersAreRequested : Prop :=
  ∀ (s : State) (c : BusNumbers), s.Inv →
    (∀ x, s.transaction? = some x → x.inMap = true) ∧
    (∀ q, s.busRequest? c = some q → q.addr = 0x1E#5 ∧
      (q.reg = c.regPage ∨ q.reg = c.regAddr ∨ q.reg = c.regData0 ∨ q.reg = c.regData0 + 1 ∨ q.reg = c.regData0 + 2 ∨
        q.reg = c.regData0 + 3)) ∧
    (s.rstAsserted = true ∨ s.phase = .idle → s.busRequest? c = none)

/-! ## Invariants -/

/-- The state after reset meets the invariant, holds the values R48 gives, and has made no bus transaction. -/
def Obligations.ResetMeetsInvariant : Prop :=
  State.reset.Inv ∧ State.reset.cache = ⟨false, 0xFF⟩ ∧ State.reset.phase = .idle ∧ State.reset.slotIdx = 0 ∧
    State.reset.pollCnt = 0 ∧ State.reset.status = .ok ∧ State.reset.done = false ∧ State.reset.trace = []

/-- Every step keeps the invariant: the ranges of SLOT_IDX and POLL_CNT (R27, R28), what each PHASE means (R26), DONE only in
IDLE (R34), RDATA zero-extended when specified (R108), and PAGE_CACHE the page most recently confirmed selected (R22). -/
def Obligations.EveryStepKeepsInvariant : Prop :=
  ∀ s t : State, s.Inv → step s = .next t → t.Inv

/-- R22: PAGE_CACHE is the page of the most recent page-select write that returned ok since the last reset, or the sentinel if
there is none: so it is at reset, and every step keeps it, from every state in which it is so. -/
def Obligations.CacheMirrorsConfirmedSelects : Prop :=
  State.reset.cache.view = selectedIn State.reset.trace ∧
    ∀ s t : State, s.cache.view = selectedIn s.trace → step s = .next t → t.cache.view = selectedIn t.trace

/-! ## Reset -/

/-- R48, R260, R262, R263: asserted in any phase, `rst` wins over everything; the registers the table gives a value take it; no
bus transaction is issued (the trace gets the reset mark alone) and the command port is left alone. -/
def Obligations.ResetTakesEffectInAnyPhase : Prop :=
  ∀ (s : State) (rest : List EnvEvent), s.env = .rst :: rest →
    ∃ t, step s = .next t ∧ t.cache = ⟨false, 0xFF⟩ ∧ t.phase = .idle ∧ t.slotIdx = 0 ∧ t.pollCnt = 0 ∧ t.status = .ok ∧
      t.done = false ∧ t.trace = s.trace ++ [.rst] ∧ t.env = rest ∧ t.port = s.port ∧ t.program = s.program

/-- R263: `rst` met during a command's access abandons it, whatever the access did so far: no finish event, DONE = 0,
PHASE = IDLE, PAGE_CACHE the sentinel, and no further transaction. Only an access that had finished before it, on some of the
answers, each taken by one transaction, leaves `rst` where it stands, after the answers not taken. -/
def Obligations.ResetAbandonsAccess : Prop :=
  ∀ (s : State) (i : Instr) (f : CmdFields) (l : List BusRsp) (rest : List EnvEvent),
    i.fields? = some f → s.phase = .idle → s.env = answered l ++ .rst :: rest → l ≠ [] →
    ∃ t new, exec i s = .next t ∧ t.trace = s.trace ++ new ∧
      ((t.finished = true ∧ new.length ≤ l.length ∧ .rst ∉ new ∧
          t.env = answered (l.drop new.length) ++ .rst :: rest) ∨
        (t.phase = .idle ∧ t.done = false ∧ t.cache = ⟨false, 0xFF⟩ ∧ t.status = .ok ∧ t.slotIdx = 0 ∧ t.pollCnt = 0 ∧
          t.env = rest ∧ ∃ before, new = before ++ [.rst] ∧ before.length = l.length ∧ .rst ∉ before))

/-! ## Waiting, sampling, ignored bits -/

/-- R46: while a transaction of the access in flight has no answer, and in IDLE while no command is presented (R40), the step
changes nothing of the block: at most a silent moment of the environment passes (the model's choice, log entry 8). -/
def Obligations.BlockWaitsForAnswersAndCommands : Prop :=
  ∀ s : State, s.rstAsserted = false →
    (s.phase ≠ .idle → s.transaction? ≠ none →
      (s.env = [] → step s = .next s) ∧ ∀ rest, s.env = .silent :: rest → step s = .next { s with env := rest }) ∧
    (s.phase = .idle → s.port.valid = false →
      (∀ rest, s.env = .silent :: rest → step s = .next { s with env := rest }) ∧
        ((∀ rest, s.env ≠ .silent :: rest) → step s = .next s))

/-- R93: the command word and the value are sampled once, at accept: during an access whatever the host does at the command port
changes nothing of the access. -/
def Obligations.HostInputsDoNotReachAnAccess : Prop :=
  ∀ (s : State) (p : Port) (l : List HostLine), s.phase ≠ .idle →
    ∃ t, step s = .next t ∧ step { s with port := p, program := l } = .next { t with port := p, program := l }

/-- R107: a write uses bits [16·nslots − 1 : 0] of `cmd_wdata` and ignores the rest: two values that agree there give the same
bus trace and the same result. -/
def Obligations.UnusedValueBitsAreIgnored : Prop :=
  ∀ (s : State) (i : Instr) (f : CmdFields) (value : Value), i.fields? = some f → s.cmdReady = true →
    (∀ k, k < 16 * (f.nslot.toNat + 1) → value.getLsbD k = s.port.wdata.getLsbD k) →
    ∃ t u, exec i s = .next t ∧ exec i { s with port := { s.port with wdata := value } } = .next u ∧
      u.trace = t.trace ∧ u.status = t.status ∧ u.done = t.done ∧ u.phase = t.phase ∧ u.cache = t.cache ∧
      u.errInfo = t.errInfo ∧ u.env = t.env

/-- R163, R164, R183: read8 and read16 with the same operands and answers make the same bus trace and end alike, and when they
succeed the result of read8 is that of read16 masked to 8 bits; write8 and write16 make the same bus trace and end alike. -/
def Obligations.ByteAccessIsWordAccessMasked : Prop :=
  ∀ (s : State) (page : Page) (reg : LReg),
    (∃ t u, exec (.read8 page reg) s = .next t ∧ exec (.read16 page reg) s = .next u ∧ t.trace = u.trace ∧
      t.status = u.status ∧ t.done = u.done ∧ t.phase = u.phase ∧ t.cache = u.cache ∧ t.errInfo = u.errInfo ∧
      t.env = u.env ∧ (s.cmdReady = true → u.finished = true → u.status = .ok → t.rdata = u.rdata &&& 0xFF)) ∧
    (∃ t u, exec (.write8 page reg) s = .next t ∧ exec (.write16 page reg) s = .next u ∧ t.trace = u.trace ∧
      t.status = u.status ∧ t.done = u.done ∧ t.phase = u.phase ∧ t.cache = u.cache ∧ t.errInfo = u.errInfo ∧
      t.env = u.env)

/-! ## The sequencer against the source's algorithms -/

/-- R151 for the reads: for every sequence of answers, running the rows of R150 from the accept gives the trace, the page cache
and the result of the pseudocode of R130, R140 and R161, and takes as many answers. -/
def Obligations.ReadRowsAgreeWithPseudocode : Prop :=
  ∀ (s : State) (n : Width) (page : Page) (reg : LReg) (l : List BusRsp), s.phase = .idle → s.env = answered l →
    ∃ t, exec (n.read page reg) s = .next t ∧
      match World.readN n page reg ⟨s.cache, l, []⟩ with
      | (res, w) =>
        t.trace = s.trace ++ w.trace ∧ t.cache = w.cache ∧ t.env = answered w.answers ∧
          match res with
          | .ok v => t.finished = true ∧ t.status = .ok ∧ t.rdata = v
          | .transport e => t.finished = true ∧ t.status = .transport ∧ t.errInfo = e
          | .timeout => t.finished = true ∧ t.status = .timeout
          | .unanswered => t.busy = true ∧ t.done = false

/-- R151 for the writes: the same against R130, R140 and R181. -/
def Obligations.WriteRowsAgreeWithPseudocode : Prop :=
  ∀ (s : State) (n : Width) (page : Page) (reg : LReg) (l : List BusRsp), s.phase = .idle → s.env = answered l →
    ∃ t, exec (n.write page reg) s = .next t ∧
      match World.writeN n page reg s.port.wdata ⟨s.cache, l, []⟩ with
      | (res, w) =>
        t.trace = s.trace ++ w.trace ∧ t.cache = w.cache ∧ t.env = answered w.answers ∧
          match res with
          | .ok _ => t.finished = true ∧ t.status = .ok
          | .transport e => t.finished = true ∧ t.status = .transport ∧ t.errInfo = e
          | .timeout => t.finished = true ∧ t.status = .timeout
          | .unanswered => t.busy = true ∧ t.done = false

/-- Row by row is the whole access, and silence only delays it (R46, R150, R151): a command presented to an environment that
answers with any silences in between, then stepped, comes to what the whole access comes to on the same answers without the
silences. Twelve steps and one for each event of the environment are enough. That `exec` runs a whole access is the model's
choice (log entry 12); this statement is what justifies it. -/
def Obligations.StepByStepReachesTheWholeAccess : Prop :=
  ∀ (s : State) (i : Instr), s.phase = .idle → s.port.valid = true → s.program = [] →
    decode (.cmd32 s.port.cmd) = .ok i → .rst ∉ s.env →
    ∃ t u, Host.Core.run core (12 + s.env.length) s = .next t ∧
      exec i { s with env := s.env.filter (fun e => e ≠ .silent) } = .next u ∧
      ({ t with env := [] } : State) = { u with env := [] }

/-! ## The block with a device that keeps the contract, and several instances -/

/-- R84: on a device that keeps the contract R78 to R82, a successful write-N of V and then a successful read-N at the same
address, the register being N bits wide, read V's low N bits. At the start no operation is pending and the device's selected
page is the cached one, if any (R267). That slots keep what was
staged until an operation uses them, and an idle device its registers, is deduced (log entry 24); that bus reads
have no side effect on the device is the model's choice (log entry 29). -/
def Obligations.WriteThenReadReturnsTheValue : Prop :=
  ∀ (n : Width) (width : Page → LReg → Width) (page : Page) (reg : LReg) (s t u : State) (first second : List BusEvent)
    (d₀ d₁ d₂ : Device),
    s.cmdReady = true → exec (n.write page reg) s = .next t → t.finished = true → t.status = .ok →
    t.trace = s.trace ++ first →
    t.cmdReady = true → exec (n.read page reg) t = .next u → u.finished = true → u.status = .ok →
    u.trace = t.trace ++ second →
    d₀.op = none → (s.cache.valid = true → d₀.page = s.cache.page) → width page reg = n →
    d₀.Follows width first d₁ → d₁.Follows width second d₂ →
    u.rdata = (s.port.wdata.setWidth n.bits).setWidth 64

/-- RefDevice keeps the device contract (R78 to R82, R84): whatever well-formed transaction the block can ask for, RefDevice's
answer and its next state are what the contract allows, whether or not the transaction fails; and while no operation is in
flight its address register reads as complete. -/
def Obligations.RefDeviceKeepsTheContract : Prop :=
  ∀ (d : RefDevice) (x : Transaction), (d.busy = false → pollComplete d.addr = true) →
    (d.busy = true → ∃ reg dir, d.addr = addrWord reg (opcodeOf dir)) →
    (∀ v, x = .write .addr v → ∃ reg dir, v = addrWord reg (opcodeOf dir)) →
    d.toDevice.Reacts d.width (x.event (d.answer x).1) (d.answer x).2.toDevice ∧
      ((d.answer x).2.busy = false → pollComplete (d.answer x).2.addr = true) ∧
      ((d.answer x).2.busy = true → ∃ reg dir, (d.answer x).2.addr = addrWord reg (opcodeOf dir))

/-- R138, R24, R91: a step of one instance leaves every other instance as it was, and what it does depends on that instance
alone; steps of two different instances commute, so their transactions interleave freely. -/
def Obligations.InstancesAreIndependent : Prop :=
  (∀ (k : Nat) (a b : List State), a[k]? = b[k]? →
    ∃ x y, stepInstance k a = .next x ∧ stepInstance k b = .next y ∧ x[k]? = y[k]? ∧ x.length = a.length ∧
      ∀ j, j ≠ k → x[j]? = a[j]?) ∧
  (∀ (j k : Nat) (a : List State), j ≠ k →
    ∃ b c d, stepInstance j a = .next b ∧ stepInstance k b = .next d ∧ stepInstance k a = .next c ∧
      stepInstance j c = .next d)
end

