-- ==== Sys2Proof/Laws/Operands.lean ====
section
/-!
SUPPORT. The assembled words bit by bit: slot words, the value a read assembles, the fields of the bus words.
-/

namespace Sys2Proof.Machine

/-- Slot i's word is bits [16i+15 : 16i] of the value (R114). -/
theorem slotWord_eq_extract (v : Value) (i : BitVec 3) : slotWord v i = v.extractLsb' (16 * i.toNat) 16 := by
  apply BitVec.eq_of_getLsbD_eq
  intro k hk
  simp [slotWord, hk]

/-- A bit of a value with one more slot placed. -/
theorem placeSlot_getLsbD (a : Value) (i : BitVec 3) (w : BusWord) (k : Nat) :
    (placeSlot a i w).getLsbD k =
      (a.getLsbD k || (decide (k < 64) && (decide (16 * i.toNat ≤ k) && w.getLsbD (k - 16 * i.toNat)))) := by
  by_cases h : k < 64
  · by_cases h' : 16 * i.toNat ≤ k
    · simp [placeSlot, h, h', Nat.not_lt.mpr h']
    · simp [placeSlot, h, h', Nat.not_le.mp h']
  · simp [placeSlot, h]

/-- One slot placed into an empty value. -/
theorem placeSlot_one (a : BusWord) : placeSlot 0 0 a = a.setWidth 64 := by
  apply BitVec.eq_of_getLsbD_eq
  intro k hk
  rw [placeSlot_getLsbD]
  simp [hk]

/-- Two slots placed (R165). -/
theorem placeSlot_two (a b : BusWord) : placeSlot (placeSlot 0 0 a) 1 b = (b ++ a).setWidth 64 := by
  apply BitVec.eq_of_getLsbD_eq
  intro k hk
  rw [placeSlot_getLsbD, placeSlot_getLsbD, BitVec.getLsbD_setWidth, BitVec.getLsbD_append]
  by_cases h : k < 16
  · simp [hk, h]
  · simp [hk, h, Nat.not_lt.mp h]

/-- Three slots placed (R166). -/
theorem placeSlot_three (a b c : BusWord) :
    placeSlot (placeSlot (placeSlot 0 0 a) 1 b) 2 c = (c ++ b ++ a).setWidth 64 := by
  apply BitVec.eq_of_getLsbD_eq
  intro k hk
  rw [placeSlot_getLsbD, placeSlot_two, BitVec.getLsbD_setWidth, BitVec.getLsbD_setWidth, BitVec.getLsbD_append,
    BitVec.getLsbD_append, BitVec.getLsbD_append]
  by_cases h : k < 16
  · simp [hk, h, show ¬ 32 ≤ k by omega]
  · by_cases h' : k < 32
    · simp [hk, h, show ¬ 32 ≤ k by omega, show k - 16 < 16 by omega]
    · simp [hk, h, Nat.not_lt.mp h', show ¬ k - 16 < 16 by omega, BitVec.getLsbD_of_ge b (k - 16) (by omega),
        show k - 16 - 16 = k - 32 by omega]

/-- Four slots placed (R167). -/
theorem placeSlot_four (a b c d : BusWord) :
    placeSlot (placeSlot (placeSlot (placeSlot 0 0 a) 1 b) 2 c) 3 d = d ++ c ++ b ++ a := by
  apply BitVec.eq_of_getLsbD_eq
  intro k hk
  have split : (d ++ c ++ b ++ a : BitVec 64).getLsbD k =
      if k < 48 then (c ++ b ++ a).getLsbD k else d.getLsbD (k - 48) := by
    refine (BitVec.getLsbD_append (x := d ++ c ++ b) (y := a)).trans ?_
    rw [BitVec.getLsbD_append, BitVec.getLsbD_append, BitVec.getLsbD_append, BitVec.getLsbD_append]
    by_cases h : k < 16
    · simp [h, show k < 48 by omega]
    · by_cases h' : k < 32
      · simp [h, show k - 16 < 16 by omega, show k < 48 by omega]
      · by_cases h'' : k < 48
        · simp [h, h'', show ¬ k - 16 < 16 by omega, show k - 16 - 16 < 16 by omega]
        · simp [h, h'', show ¬ k - 16 < 16 by omega, show ¬ k - 16 - 16 < 16 by omega,
            show k - 16 - 16 - 16 = k - 48 by omega]
  rw [split, placeSlot_getLsbD, placeSlot_three, BitVec.getLsbD_setWidth]
  by_cases h : k < 48
  · simp [hk, h, show ¬ 48 ≤ k by omega]
  · simp [hk, h, Nat.not_lt.mp h]

/-- The page-select word's fields (R110): PAGE above the byte 0x01. -/
theorem pageSelectWord_fields (p : Page) :
    (pageSelectWord p).extractLsb' 8 8 = p ∧ (pageSelectWord p).extractLsb' 0 8 = 0x01#8 := by
  constructor
  · ext k hk
    simp [pageSelectWord, Config.pageEnable]
    interval_cases k <;> simp
  · ext k hk
    simp [pageSelectWord, Config.pageEnable]
    interval_cases k <;> simp

/-- The address word's fields (R111, R112): REG above the opcode byte. -/
theorem addrWord_fields (r : LReg) (dir : Bool) :
    (addrWord r (opcodeOf dir)).extractLsb' 8 8 = r ∧
      (addrWord r (opcodeOf dir)).extractLsb' 0 8 = if dir then 0x01#8 else 0x02#8 := by
  constructor
  · ext k hk
    cases dir <;> simp [addrWord, opcodeOf, Config.opRead, Config.opWrite] <;> interval_cases k <;> simp
  · ext k hk
    cases dir <;> simp [addrWord, opcodeOf, Config.opRead, Config.opWrite] <;> interval_cases k <;> simp

end Sys2Proof.Machine
end

