-- ==== Sys2Proof/Laws/State.lean ====
section
/-!
SUPPORT. One lemma per field per update of the state, so that no later proof unfolds a record update.
-/

namespace Sys2Proof.Machine

/-! ## Loading the latches (R41, R102) -/

@[simp] theorem latch_cache (s : State) (f : CmdFields) : (s.latch f).cache = s.cache := rfl
@[simp] theorem latch_phase (s : State) (f : CmdFields) : (s.latch f).phase = s.phase := rfl
@[simp] theorem latch_slotIdx (s : State) (f : CmdFields) : (s.latch f).slotIdx = s.slotIdx := rfl
@[simp] theorem latch_pollCnt (s : State) (f : CmdFields) : (s.latch f).pollCnt = s.pollCnt := rfl
@[simp] theorem latch_lDir (s : State) (f : CmdFields) : (s.latch f).lDir = f.dir := rfl
@[simp] theorem latch_lByte (s : State) (f : CmdFields) : (s.latch f).lByte = f.byte := rfl
@[simp] theorem latch_lNslot (s : State) (f : CmdFields) : (s.latch f).lNslot = f.nslot := rfl
@[simp] theorem latch_lPage (s : State) (f : CmdFields) : (s.latch f).lPage = f.page := rfl
@[simp] theorem latch_lReg (s : State) (f : CmdFields) : (s.latch f).lReg = f.reg := rfl
@[simp] theorem latch_lWdata (s : State) (f : CmdFields) : (s.latch f).lWdata = s.lWdata := rfl
@[simp] theorem latch_rdata (s : State) (f : CmdFields) : (s.latch f).rdata = s.rdata := rfl
@[simp] theorem latch_status (s : State) (f : CmdFields) : (s.latch f).status = s.status := rfl
@[simp] theorem latch_errInfo (s : State) (f : CmdFields) : (s.latch f).errInfo = s.errInfo := rfl
@[simp] theorem latch_done (s : State) (f : CmdFields) : (s.latch f).done = s.done := rfl
@[simp] theorem latch_acc (s : State) (f : CmdFields) : (s.latch f).acc = s.acc := rfl
@[simp] theorem latch_draws (s : State) (f : CmdFields) : (s.latch f).draws = s.draws := rfl
@[simp] theorem latch_sleeps (s : State) (f : CmdFields) : (s.latch f).sleeps = s.sleeps := rfl
@[simp] theorem latch_trace (s : State) (f : CmdFields) : (s.latch f).trace = s.trace := rfl
@[simp] theorem latch_port (s : State) (f : CmdFields) : (s.latch f).port = s.port := rfl
@[simp] theorem latch_program (s : State) (f : CmdFields) : (s.latch f).program = s.program := rfl
@[simp] theorem latch_env (s : State) (f : CmdFields) : (s.latch f).env = s.env := rfl

/-! ## The finish event (R42) -/

@[simp] theorem finish_cache (s : State) (st : Status) (e : ErrT) (v : Value) : (s.finish st e v).cache = s.cache := rfl
@[simp] theorem finish_phase (s : State) (st : Status) (e : ErrT) (v : Value) : (s.finish st e v).phase = .idle := rfl
@[simp] theorem finish_slotIdx (s : State) (st : Status) (e : ErrT) (v : Value) : (s.finish st e v).slotIdx = s.slotIdx := rfl
@[simp] theorem finish_pollCnt (s : State) (st : Status) (e : ErrT) (v : Value) : (s.finish st e v).pollCnt = s.pollCnt := rfl
@[simp] theorem finish_lDir (s : State) (st : Status) (e : ErrT) (v : Value) : (s.finish st e v).lDir = s.lDir := rfl
@[simp] theorem finish_lByte (s : State) (st : Status) (e : ErrT) (v : Value) : (s.finish st e v).lByte = s.lByte := rfl
@[simp] theorem finish_lNslot (s : State) (st : Status) (e : ErrT) (v : Value) : (s.finish st e v).lNslot = s.lNslot := rfl
@[simp] theorem finish_lPage (s : State) (st : Status) (e : ErrT) (v : Value) : (s.finish st e v).lPage = s.lPage := rfl
@[simp] theorem finish_lReg (s : State) (st : Status) (e : ErrT) (v : Value) : (s.finish st e v).lReg = s.lReg := rfl
@[simp] theorem finish_lWdata (s : State) (st : Status) (e : ErrT) (v : Value) : (s.finish st e v).lWdata = s.lWdata := rfl
@[simp] theorem finish_rdata (s : State) (st : Status) (e : ErrT) (v : Value) : (s.finish st e v).rdata = v := rfl
@[simp] theorem finish_status (s : State) (st : Status) (e : ErrT) (v : Value) : (s.finish st e v).status = st := rfl
@[simp] theorem finish_errInfo (s : State) (st : Status) (e : ErrT) (v : Value) : (s.finish st e v).errInfo = e := rfl
@[simp] theorem finish_done (s : State) (st : Status) (e : ErrT) (v : Value) : (s.finish st e v).done = true := rfl
@[simp] theorem finish_acc (s : State) (st : Status) (e : ErrT) (v : Value) : (s.finish st e v).acc = s.acc := rfl
@[simp] theorem finish_draws (s : State) (st : Status) (e : ErrT) (v : Value) : (s.finish st e v).draws = s.draws + 1 := rfl
@[simp] theorem finish_sleeps (s : State) (st : Status) (e : ErrT) (v : Value) : (s.finish st e v).sleeps = s.sleeps := rfl
@[simp] theorem finish_trace (s : State) (st : Status) (e : ErrT) (v : Value) : (s.finish st e v).trace = s.trace := rfl
@[simp] theorem finish_port (s : State) (st : Status) (e : ErrT) (v : Value) : (s.finish st e v).port = s.port := rfl
@[simp] theorem finish_program (s : State) (st : Status) (e : ErrT) (v : Value) : (s.finish st e v).program = s.program := rfl
@[simp] theorem finish_env (s : State) (st : Status) (e : ErrT) (v : Value) : (s.finish st e v).env = s.env := rfl

/-! ## Taking an error (R228) -/

@[simp] theorem raise_cache (k : ErrorKind) (s : State) : (raise k s).cache = s.cache := rfl
@[simp] theorem raise_phase (k : ErrorKind) (s : State) : (raise k s).phase = .idle := rfl
@[simp] theorem raise_slotIdx (k : ErrorKind) (s : State) : (raise k s).slotIdx = s.slotIdx := rfl
@[simp] theorem raise_pollCnt (k : ErrorKind) (s : State) : (raise k s).pollCnt = s.pollCnt := rfl
@[simp] theorem raise_lDir (k : ErrorKind) (s : State) : (raise k s).lDir = s.lDir := rfl
@[simp] theorem raise_lByte (k : ErrorKind) (s : State) : (raise k s).lByte = s.lByte := rfl
@[simp] theorem raise_lNslot (k : ErrorKind) (s : State) : (raise k s).lNslot = s.lNslot := rfl
@[simp] theorem raise_lPage (k : ErrorKind) (s : State) : (raise k s).lPage = s.lPage := rfl
@[simp] theorem raise_lReg (k : ErrorKind) (s : State) : (raise k s).lReg = s.lReg := rfl
@[simp] theorem raise_lWdata (k : ErrorKind) (s : State) : (raise k s).lWdata = s.lWdata := rfl
@[simp] theorem raise_rdata (k : ErrorKind) (s : State) : (raise k s).rdata = Config.freeRdata s.draws := rfl
@[simp] theorem raise_status (k : ErrorKind) (s : State) : (raise k s).status = k.status := rfl
@[simp] theorem raise_errInfo (k : ErrorKind) (s : State) : (raise k s).errInfo = k.errInfo s.draws := rfl
@[simp] theorem raise_done (k : ErrorKind) (s : State) : (raise k s).done = true := rfl
@[simp] theorem raise_acc (k : ErrorKind) (s : State) : (raise k s).acc = s.acc := rfl
@[simp] theorem raise_draws (k : ErrorKind) (s : State) : (raise k s).draws = s.draws + 1 := rfl
@[simp] theorem raise_sleeps (k : ErrorKind) (s : State) : (raise k s).sleeps = s.sleeps := rfl
@[simp] theorem raise_trace (k : ErrorKind) (s : State) : (raise k s).trace = s.trace := rfl
@[simp] theorem raise_port (k : ErrorKind) (s : State) : (raise k s).port = s.port := rfl
@[simp] theorem raise_program (k : ErrorKind) (s : State) : (raise k s).program = s.program := rfl
@[simp] theorem raise_env (k : ErrorKind) (s : State) : (raise k s).env = s.env := rfl

/-! ## A finished write and a finished read (R161, R181) -/

@[simp] theorem finishWrite_cache (s : State) : (finishWrite s).cache = s.cache := rfl
@[simp] theorem finishWrite_phase (s : State) : (finishWrite s).phase = .idle := rfl
@[simp] theorem finishWrite_slotIdx (s : State) : (finishWrite s).slotIdx = s.slotIdx := rfl
@[simp] theorem finishWrite_pollCnt (s : State) : (finishWrite s).pollCnt = s.pollCnt := rfl
@[simp] theorem finishWrite_lDir (s : State) : (finishWrite s).lDir = s.lDir := rfl
@[simp] theorem finishWrite_lByte (s : State) : (finishWrite s).lByte = s.lByte := rfl
@[simp] theorem finishWrite_lNslot (s : State) : (finishWrite s).lNslot = s.lNslot := rfl
@[simp] theorem finishWrite_lPage (s : State) : (finishWrite s).lPage = s.lPage := rfl
@[simp] theorem finishWrite_lReg (s : State) : (finishWrite s).lReg = s.lReg := rfl
@[simp] theorem finishWrite_lWdata (s : State) : (finishWrite s).lWdata = s.lWdata := rfl
@[simp] theorem finishWrite_rdata (s : State) : (finishWrite s).rdata = Config.freeRdata s.draws := rfl
@[simp] theorem finishWrite_status (s : State) : (finishWrite s).status = .ok := rfl
@[simp] theorem finishWrite_errInfo (s : State) : (finishWrite s).errInfo = Config.freeErrInfo s.draws := rfl
@[simp] theorem finishWrite_done (s : State) : (finishWrite s).done = true := rfl
@[simp] theorem finishWrite_acc (s : State) : (finishWrite s).acc = s.acc := rfl
@[simp] theorem finishWrite_draws (s : State) : (finishWrite s).draws = s.draws + 1 := rfl
@[simp] theorem finishWrite_sleeps (s : State) : (finishWrite s).sleeps = s.sleeps := rfl
@[simp] theorem finishWrite_trace (s : State) : (finishWrite s).trace = s.trace := rfl
@[simp] theorem finishWrite_port (s : State) : (finishWrite s).port = s.port := rfl
@[simp] theorem finishWrite_program (s : State) : (finishWrite s).program = s.program := rfl
@[simp] theorem finishWrite_env (s : State) : (finishWrite s).env = s.env := rfl

@[simp] theorem finishRead_cache (s : State) : (finishRead s).cache = s.cache := rfl
@[simp] theorem finishRead_phase (s : State) : (finishRead s).phase = .idle := rfl
@[simp] theorem finishRead_slotIdx (s : State) : (finishRead s).slotIdx = s.slotIdx := rfl
@[simp] theorem finishRead_pollCnt (s : State) : (finishRead s).pollCnt = s.pollCnt := rfl
@[simp] theorem finishRead_lDir (s : State) : (finishRead s).lDir = s.lDir := rfl
@[simp] theorem finishRead_lByte (s : State) : (finishRead s).lByte = s.lByte := rfl
@[simp] theorem finishRead_lNslot (s : State) : (finishRead s).lNslot = s.lNslot := rfl
@[simp] theorem finishRead_lPage (s : State) : (finishRead s).lPage = s.lPage := rfl
@[simp] theorem finishRead_lReg (s : State) : (finishRead s).lReg = s.lReg := rfl
@[simp] theorem finishRead_lWdata (s : State) : (finishRead s).lWdata = s.lWdata := rfl
@[simp] theorem finishRead_rdata (s : State) : (finishRead s).rdata = s.acc := rfl
@[simp] theorem finishRead_status (s : State) : (finishRead s).status = .ok := rfl
@[simp] theorem finishRead_errInfo (s : State) : (finishRead s).errInfo = Config.freeErrInfo s.draws := rfl
@[simp] theorem finishRead_done (s : State) : (finishRead s).done = true := rfl
@[simp] theorem finishRead_acc (s : State) : (finishRead s).acc = s.acc := rfl
@[simp] theorem finishRead_draws (s : State) : (finishRead s).draws = s.draws + 1 := rfl
@[simp] theorem finishRead_sleeps (s : State) : (finishRead s).sleeps = s.sleeps := rfl
@[simp] theorem finishRead_trace (s : State) : (finishRead s).trace = s.trace := rfl
@[simp] theorem finishRead_port (s : State) : (finishRead s).port = s.port := rfl
@[simp] theorem finishRead_program (s : State) : (finishRead s).program = s.program := rfl
@[simp] theorem finishRead_env (s : State) : (finishRead s).env = s.env := rfl

/-! ## Reset (R48) -/

@[simp] theorem resetRegisters_cache (s : State) : (resetRegisters s).cache = ⟨false, 0xFF⟩ := rfl
@[simp] theorem resetRegisters_phase (s : State) : (resetRegisters s).phase = .idle := rfl
@[simp] theorem resetRegisters_slotIdx (s : State) : (resetRegisters s).slotIdx = 0 := rfl
@[simp] theorem resetRegisters_pollCnt (s : State) : (resetRegisters s).pollCnt = 0 := rfl
@[simp] theorem resetRegisters_lDir (s : State) : (resetRegisters s).lDir = (CmdFields.ofWord (Config.freeLatches s.draws)).dir := rfl
@[simp] theorem resetRegisters_lByte (s : State) : (resetRegisters s).lByte = (CmdFields.ofWord (Config.freeLatches s.draws)).byte := rfl
@[simp] theorem resetRegisters_lNslot (s : State) : (resetRegisters s).lNslot = (CmdFields.ofWord (Config.freeLatches s.draws)).nslot := rfl
@[simp] theorem resetRegisters_lPage (s : State) : (resetRegisters s).lPage = (CmdFields.ofWord (Config.freeLatches s.draws)).page := rfl
@[simp] theorem resetRegisters_lReg (s : State) : (resetRegisters s).lReg = (CmdFields.ofWord (Config.freeLatches s.draws)).reg := rfl
@[simp] theorem resetRegisters_lWdata (s : State) : (resetRegisters s).lWdata = Config.freeWdata s.draws := rfl
@[simp] theorem resetRegisters_rdata (s : State) : (resetRegisters s).rdata = Config.freeRdata s.draws := rfl
@[simp] theorem resetRegisters_status (s : State) : (resetRegisters s).status = .ok := rfl
@[simp] theorem resetRegisters_errInfo (s : State) : (resetRegisters s).errInfo = Config.freeErrInfo s.draws := rfl
@[simp] theorem resetRegisters_done (s : State) : (resetRegisters s).done = false := rfl
@[simp] theorem resetRegisters_acc (s : State) : (resetRegisters s).acc = 0 := rfl
@[simp] theorem resetRegisters_draws (s : State) : (resetRegisters s).draws = s.draws + 1 := rfl
@[simp] theorem resetRegisters_sleeps (s : State) : (resetRegisters s).sleeps = s.sleeps := rfl
@[simp] theorem resetRegisters_trace (s : State) : (resetRegisters s).trace = s.trace ++ [.rst] := rfl
@[simp] theorem resetRegisters_port (s : State) : (resetRegisters s).port = s.port := rfl
@[simp] theorem resetRegisters_program (s : State) : (resetRegisters s).program = s.program := rfl
@[simp] theorem resetRegisters_env (s : State) : (resetRegisters s).env = s.env := rfl

/-! ## The host presents its next line (R40, R117) -/

@[simp] theorem presentNext_cache (s : State) : (s.presentNext).cache = s.cache := by unfold State.presentNext; split <;> rfl
@[simp] theorem presentNext_phase (s : State) : (s.presentNext).phase = s.phase := by unfold State.presentNext; split <;> rfl
@[simp] theorem presentNext_slotIdx (s : State) : (s.presentNext).slotIdx = s.slotIdx := by unfold State.presentNext; split <;> rfl
@[simp] theorem presentNext_pollCnt (s : State) : (s.presentNext).pollCnt = s.pollCnt := by unfold State.presentNext; split <;> rfl
@[simp] theorem presentNext_lDir (s : State) : (s.presentNext).lDir = s.lDir := by unfold State.presentNext; split <;> rfl
@[simp] theorem presentNext_lByte (s : State) : (s.presentNext).lByte = s.lByte := by unfold State.presentNext; split <;> rfl
@[simp] theorem presentNext_lNslot (s : State) : (s.presentNext).lNslot = s.lNslot := by unfold State.presentNext; split <;> rfl
@[simp] theorem presentNext_lPage (s : State) : (s.presentNext).lPage = s.lPage := by unfold State.presentNext; split <;> rfl
@[simp] theorem presentNext_lReg (s : State) : (s.presentNext).lReg = s.lReg := by unfold State.presentNext; split <;> rfl
@[simp] theorem presentNext_lWdata (s : State) : (s.presentNext).lWdata = s.lWdata := by unfold State.presentNext; split <;> rfl
@[simp] theorem presentNext_rdata (s : State) : (s.presentNext).rdata = s.rdata := by unfold State.presentNext; split <;> rfl
@[simp] theorem presentNext_status (s : State) : (s.presentNext).status = s.status := by unfold State.presentNext; split <;> rfl
@[simp] theorem presentNext_errInfo (s : State) : (s.presentNext).errInfo = s.errInfo := by unfold State.presentNext; split <;> rfl
@[simp] theorem presentNext_done (s : State) : (s.presentNext).done = s.done := by unfold State.presentNext; split <;> rfl
@[simp] theorem presentNext_acc (s : State) : (s.presentNext).acc = s.acc := by unfold State.presentNext; split <;> rfl
@[simp] theorem presentNext_draws (s : State) : (s.presentNext).draws = s.draws := by unfold State.presentNext; split <;> rfl
@[simp] theorem presentNext_sleeps (s : State) : (s.presentNext).sleeps = s.sleeps := by unfold State.presentNext; split <;> rfl
@[simp] theorem presentNext_trace (s : State) : (s.presentNext).trace = s.trace := by unfold State.presentNext; split <;> rfl
@[simp] theorem presentNext_env (s : State) : (s.presentNext).env = s.env := by unfold State.presentNext; split <;> rfl

@[simp] theorem latch_presentNext_port (s : State) (f : CmdFields) :
    (s.latch f).presentNext.port = s.presentNext.port := by
  cases h : s.program <;> simp [State.presentNext, h]

@[simp] theorem latch_presentNext_program (s : State) (f : CmdFields) :
    (s.latch f).presentNext.program = s.presentNext.program := by
  cases h : s.program <;> simp [State.presentNext, h]

/-! ## Accept (R41) -/

@[simp] theorem acceptFields_cache (f : CmdFields) (w : Value) (s : State) : (acceptFields f w s).cache = s.cache := by simp [acceptFields]
@[simp] theorem acceptFields_phase (f : CmdFields) (w : Value) (s : State) : (acceptFields f w s).phase = s.phase := by simp [acceptFields]
@[simp] theorem acceptFields_slotIdx (f : CmdFields) (w : Value) (s : State) : (acceptFields f w s).slotIdx = 0 := by simp [acceptFields]
@[simp] theorem acceptFields_pollCnt (f : CmdFields) (w : Value) (s : State) : (acceptFields f w s).pollCnt = 0 := by simp [acceptFields]
@[simp] theorem acceptFields_lDir (f : CmdFields) (w : Value) (s : State) : (acceptFields f w s).lDir = f.dir := by simp [acceptFields]
@[simp] theorem acceptFields_lByte (f : CmdFields) (w : Value) (s : State) : (acceptFields f w s).lByte = f.byte := by simp [acceptFields]
@[simp] theorem acceptFields_lNslot (f : CmdFields) (w : Value) (s : State) : (acceptFields f w s).lNslot = f.nslot := by simp [acceptFields]
@[simp] theorem acceptFields_lPage (f : CmdFields) (w : Value) (s : State) : (acceptFields f w s).lPage = f.page := by simp [acceptFields]
@[simp] theorem acceptFields_lReg (f : CmdFields) (w : Value) (s : State) : (acceptFields f w s).lReg = f.reg := by simp [acceptFields]
@[simp] theorem acceptFields_lWdata (f : CmdFields) (w : Value) (s : State) : (acceptFields f w s).lWdata = w := by simp [acceptFields]
@[simp] theorem acceptFields_rdata (f : CmdFields) (w : Value) (s : State) : (acceptFields f w s).rdata = Config.freeRdata s.draws := by simp [acceptFields]
@[simp] theorem acceptFields_status (f : CmdFields) (w : Value) (s : State) : (acceptFields f w s).status = s.status := by simp [acceptFields]
@[simp] theorem acceptFields_errInfo (f : CmdFields) (w : Value) (s : State) : (acceptFields f w s).errInfo = s.errInfo := by simp [acceptFields]
@[simp] theorem acceptFields_done (f : CmdFields) (w : Value) (s : State) : (acceptFields f w s).done = false := by simp [acceptFields]
@[simp] theorem acceptFields_acc (f : CmdFields) (w : Value) (s : State) : (acceptFields f w s).acc = s.acc := by simp [acceptFields]
@[simp] theorem acceptFields_draws (f : CmdFields) (w : Value) (s : State) : (acceptFields f w s).draws = s.draws + 1 := by simp [acceptFields]
@[simp] theorem acceptFields_sleeps (f : CmdFields) (w : Value) (s : State) : (acceptFields f w s).sleeps = s.sleeps := by simp [acceptFields]
@[simp] theorem acceptFields_trace (f : CmdFields) (w : Value) (s : State) : (acceptFields f w s).trace = s.trace := by simp [acceptFields]
@[simp] theorem acceptFields_port (f : CmdFields) (w : Value) (s : State) : (acceptFields f w s).port = s.presentNext.port := by
  simp only [acceptFields, latch_presentNext_port]
@[simp] theorem acceptFields_program (f : CmdFields) (w : Value) (s : State) : (acceptFields f w s).program = s.presentNext.program := by
  simp only [acceptFields, latch_presentNext_program]
@[simp] theorem acceptFields_env (f : CmdFields) (w : Value) (s : State) : (acceptFields f w s).env = s.env := by simp [acceptFields]

@[simp] theorem accept_cache (f : CmdFields) (s : State) : (accept f s).cache = s.cache := by simp [accept]
@[simp] theorem accept_phase (f : CmdFields) (s : State) : (accept f s).phase = if f.dir then .stage else .select := by simp [accept]
@[simp] theorem accept_slotIdx (f : CmdFields) (s : State) : (accept f s).slotIdx = 0 := by simp [accept]
@[simp] theorem accept_pollCnt (f : CmdFields) (s : State) : (accept f s).pollCnt = 0 := by simp [accept]
@[simp] theorem accept_lDir (f : CmdFields) (s : State) : (accept f s).lDir = f.dir := by simp [accept]
@[simp] theorem accept_lByte (f : CmdFields) (s : State) : (accept f s).lByte = f.byte := by simp [accept]
@[simp] theorem accept_lNslot (f : CmdFields) (s : State) : (accept f s).lNslot = f.nslot := by simp [accept]
@[simp] theorem accept_lPage (f : CmdFields) (s : State) : (accept f s).lPage = f.page := by simp [accept]
@[simp] theorem accept_lReg (f : CmdFields) (s : State) : (accept f s).lReg = f.reg := by simp [accept]
@[simp] theorem accept_lWdata (f : CmdFields) (s : State) : (accept f s).lWdata = if f.dir then s.port.wdata else Config.freeWdata s.draws := by simp [accept]
@[simp] theorem accept_rdata (f : CmdFields) (s : State) : (accept f s).rdata = Config.freeRdata s.draws := by simp [accept]
@[simp] theorem accept_status (f : CmdFields) (s : State) : (accept f s).status = s.status := by simp [accept]
@[simp] theorem accept_errInfo (f : CmdFields) (s : State) : (accept f s).errInfo = s.errInfo := by simp [accept]
@[simp] theorem accept_done (f : CmdFields) (s : State) : (accept f s).done = false := by simp [accept]
@[simp] theorem accept_acc (f : CmdFields) (s : State) : (accept f s).acc = s.acc := by simp [accept]
@[simp] theorem accept_draws (f : CmdFields) (s : State) : (accept f s).draws = s.draws + 1 := by simp [accept]
@[simp] theorem accept_sleeps (f : CmdFields) (s : State) : (accept f s).sleeps = s.sleeps := by simp [accept]
@[simp] theorem accept_trace (f : CmdFields) (s : State) : (accept f s).trace = s.trace := by simp [accept]
@[simp] theorem accept_port (f : CmdFields) (s : State) : (accept f s).port = s.presentNext.port := by simp [accept]
@[simp] theorem accept_program (f : CmdFields) (s : State) : (accept f s).program = s.presentNext.program := by simp [accept]
@[simp] theorem accept_env (f : CmdFields) (s : State) : (accept f s).env = s.env := by simp [accept]

end Sys2Proof.Machine
end

