-- ==== Sys2Proof/Laws/Ops.lean ====
section
/-!
SUPPORT. What each shared operation can do, said once: the answers to a bus transaction, the rows of R150 by phase, the run of
rows that makes up an access, and the step by what it acts on.
-/

namespace Sys2Proof.Machine

/-! ## Bus writes and reads by the environment's next move -/

theorem busWrite_nil {r v k} {s : State} (h : s.env = []) : busWrite r v k s = s := by
  simp [busWrite, h]

theorem busWrite_silent {r v k} {s : State} {rest} (h : s.env = .silent :: rest) :
    busWrite r v k s = { s with env := rest } := by
  simp [busWrite, h]

theorem busWrite_rst {r v k} {s : State} {rest} (h : s.env = .rst :: rest) :
    busWrite r v k s = resetRegisters { s with env := rest } := by
  simp [busWrite, h]

theorem busWrite_ok {r v k} {s : State} {x rest} (h : s.env = .rsp (.ok x) :: rest) :
    busWrite r v k s = k { s with env := rest, trace := s.trace ++ [.w r v] } := by
  simp [busWrite, h]

theorem busWrite_err {r v k} {s : State} {e rest} (h : s.env = .rsp (.err e) :: rest) :
    busWrite r v k s = raise (.transport e) { s with env := rest, trace := s.trace ++ [.wErr r v e] } := by
  simp [busWrite, h]

theorem busRead_nil {r k} {s : State} (h : s.env = []) : busRead r k s = s := by
  simp [busRead, h]

theorem busRead_silent {r k} {s : State} {rest} (h : s.env = .silent :: rest) :
    busRead r k s = { s with env := rest } := by
  simp [busRead, h]

theorem busRead_rst {r k} {s : State} {rest} (h : s.env = .rst :: rest) :
    busRead r k s = resetRegisters { s with env := rest } := by
  simp [busRead, h]

theorem busRead_ok {r k} {s : State} {x rest} (h : s.env = .rsp (.ok x) :: rest) :
    busRead r k s = k x { s with env := rest, trace := s.trace ++ [.r r x] } := by
  simp [busRead, h]

theorem busRead_err {r k} {s : State} {e rest} (h : s.env = .rsp (.err e) :: rest) :
    busRead r k s = raise (.transport e) { s with env := rest, trace := s.trace ++ [.rErr r e] } := by
  simp [busRead, h]

/-- Everything a bus write can do: nothing came of it (no answer), `rst`, an error, or `k` on the answered state. -/
theorem busWrite_cases (r : BusReg) (v : BusWord) (k : State → State) (s : State) :
    (s.env = [] ∧ busWrite r v k s = s) ∨
    (∃ rest, s.env = .silent :: rest ∧ busWrite r v k s = { s with env := rest }) ∨
    (∃ rest, s.env = .rst :: rest ∧ busWrite r v k s = resetRegisters { s with env := rest }) ∨
    (∃ x rest, s.env = .rsp (.ok x) :: rest ∧
      busWrite r v k s = k { s with env := rest, trace := s.trace ++ [.w r v] }) ∨
    (∃ e rest, s.env = .rsp (.err e) :: rest ∧
      busWrite r v k s = raise (.transport e) { s with env := rest, trace := s.trace ++ [.wErr r v e] }) := by
  rcases h : s.env with _ | ⟨_ | _ | _, rest⟩
  · exact .inl ⟨rfl, busWrite_nil h⟩
  · rename_i a
    cases a with
    | ok x => exact .inr (.inr (.inr (.inl ⟨x, rest, rfl, busWrite_ok h⟩)))
    | err e => exact .inr (.inr (.inr (.inr ⟨e, rest, rfl, busWrite_err h⟩)))
  · exact .inr (.inl ⟨rest, rfl, busWrite_silent h⟩)
  · exact .inr (.inr (.inl ⟨rest, rfl, busWrite_rst h⟩))

/-- Everything a bus read can do, as `busWrite_cases`. -/
theorem busRead_cases (r : BusReg) (k : BusWord → State → State) (s : State) :
    (s.env = [] ∧ busRead r k s = s) ∨
    (∃ rest, s.env = .silent :: rest ∧ busRead r k s = { s with env := rest }) ∨
    (∃ rest, s.env = .rst :: rest ∧ busRead r k s = resetRegisters { s with env := rest }) ∨
    (∃ x rest, s.env = .rsp (.ok x) :: rest ∧
      busRead r k s = k x { s with env := rest, trace := s.trace ++ [.r r x] }) ∨
    (∃ e rest, s.env = .rsp (.err e) :: rest ∧
      busRead r k s = raise (.transport e) { s with env := rest, trace := s.trace ++ [.rErr r e] }) := by
  rcases h : s.env with _ | ⟨_ | _ | _, rest⟩
  · exact .inl ⟨rfl, busRead_nil h⟩
  · rename_i a
    cases a with
    | ok x => exact .inr (.inr (.inr (.inl ⟨x, rest, rfl, busRead_ok h⟩)))
    | err e => exact .inr (.inr (.inr (.inr ⟨e, rest, rfl, busRead_err h⟩)))
  · exact .inr (.inl ⟨rest, rfl, busRead_silent h⟩)
  · exact .inr (.inr (.inl ⟨rest, rfl, busRead_rst h⟩))

/-! ## The rows of R150 by phase -/

theorem sequencerRow_idle {s : State} (h : s.phase = .idle) : sequencerRow s = s := by
  simp [sequencerRow, h]

theorem sequencerRow_stage {s : State} (h : s.phase = .stage) : sequencerRow s = stageRow s := by
  simp [sequencerRow, h]

theorem sequencerRow_select {s : State} (h : s.phase = .select) : sequencerRow s = selectRow s := by
  simp [sequencerRow, h]

theorem sequencerRow_addr {s : State} (h : s.phase = .addr) : sequencerRow s = addrRow s := by
  simp [sequencerRow, h]

theorem sequencerRow_poll {s : State} (h : s.phase = .poll) : sequencerRow s = pollRow s := by
  simp [sequencerRow, h]

theorem sequencerRow_drain {s : State} (h : s.phase = .drain) : sequencerRow s = drainRow s := by
  simp [sequencerRow, h]

theorem selectRow_hit {s : State} (h : s.cacheHit s.lPage = true) : selectRow s = { s with phase := .addr } := by
  simp [selectRow, h]

theorem selectRow_miss {s : State} (h : s.cacheHit s.lPage = false) : selectRow s = pageSelectWrite s.lPage s := by
  simp [selectRow, h]

/-- The cache test is equality with the valid page (R131): the sentinel never hits. -/
theorem cacheHit_iff (s : State) (p : Page) : s.cacheHit p = true ↔ s.cache = ⟨true, p⟩ := by
  rcases h : s.cache with ⟨v, q⟩
  simp [State.cacheHit, h]

/-! ## Runs of rows -/

theorem runRows_idle (n : Nat) {s : State} (h : s.phase = .idle) : runRows n s = s := by
  cases n <;> simp [runRows, h]

theorem runRows_waiting (n : Nat) {s : State} (h : s.phase ≠ .idle) (w : s.waiting = true) :
    runRows (n + 1) s = sequencerRow s := by
  simp [runRows, h, w]

theorem runRows_row (n : Nat) {s : State} (h : s.phase ≠ .idle) (w : s.waiting = false) :
    runRows (n + 1) s = runRows n (sequencerRow s) := by
  simp [runRows, h, w]

/-- A property every row keeps is kept by a run of rows. -/
theorem runRows_induct (P : State → Prop) (row : ∀ s, P s → P (sequencerRow s)) :
    ∀ n s, P s → P (runRows n s) := by
  intro n
  induction n with
  | zero => intro s h; exact h
  | succ n ih =>
    intro s h
    unfold runRows
    split
    · exact h
    · split
      · exact row s h
      · exact ih _ (row s h)

theorem access_ready {f : CmdFields} {s : State} (h : s.cmdReady = true) :
    access f s = runRows Config.maxRows (accept f s) := by
  simp [access, h]

theorem access_not_ready {f : CmdFields} {s : State} (h : s.cmdReady = false) : access f s = s := by
  simp [access, h]

/-- When a command can be accepted (R40). -/
theorem cmdReady_iff (s : State) : s.cmdReady = true ↔ s.phase = .idle ∧ s.rstAsserted = false := by
  simp [State.cmdReady]

/-! ## The step by what it acts on -/

theorem step_reset {s : State} (h : s.nextEvent = .reset) : step s = .next (takeReset s) := by
  simp [step, h]

theorem step_command {s : State} {i : Instr} (h : s.nextEvent = .command i) : step s = exec i s := by
  simp [step, h]

theorem step_illegal {s : State} {w : CmdWord} (h : s.nextEvent = .illegal w) : step s = .next (acceptIllegal w s) := by
  simp [step, h]

theorem step_busWord {s : State} {i : Instr} (h : s.nextEvent = .busWord i) : step s = exec i s := by
  simp [step, h]

theorem step_row {s : State} (h : s.nextEvent = .row) : step s = .next (sequencerRow s) := by
  simp [step, h]

theorem step_idleWait {s : State} (h : s.nextEvent = .idleWait) : step s = .next (idleStep s) := by
  simp [step, h]

/-- Every command of the block is the access of its CMD32 fields, every bus word its bus write. -/
theorem exec_command {i : Instr} {f : CmdFields} (h : i.fields? = some f) (s : State) :
    exec i s = .next (access f s) := by
  cases i <;> simp [Instr.fields?] at h <;> subst h <;> rfl

/-- The step of a bus word is the row of R150 it stands for. -/
theorem exec_nextBusWord {s : State} {i : Instr} (h : s.nextBusWord = some i) :
    exec i s = .next (sequencerRow s) := by
  unfold State.nextBusWord at h
  split at h
  · rename_i hp
    split at h
    · cases h
    · rename_i hm
      cases h
      rw [sequencerRow_select hp, selectRow_miss (by simpa using hm)]
      rfl
  · rename_i hp
    rw [sequencerRow_addr hp]
    cases hd : s.lDir <;> simp [hd] at h <;> subst h <;> simp [addrRow, opcodeOf, hd] <;> rfl
  · cases h

/-- Everything a step can do. -/
theorem step_cases (s : State) :
    (s.rstAsserted = true ∧ step s = .next (takeReset s)) ∨
    (s.rstAsserted = false ∧ s.phase = .idle ∧ ∃ i f, s.port.valid = true ∧ decode (.cmd32 s.port.cmd) = .ok i ∧
      i.fields? = some f ∧ step s = .next (access f s)) ∨
    (s.rstAsserted = false ∧ s.phase = .idle ∧ s.port.valid = true ∧ (∃ x, decode (.cmd32 s.port.cmd) = .error x) ∧
      step s = .next (acceptIllegal s.port.cmd s)) ∨
    (s.rstAsserted = false ∧ s.phase = .idle ∧ s.port.valid = false ∧ step s = .next (idleStep s)) ∨
    (s.rstAsserted = false ∧ s.phase ≠ .idle ∧ step s = .next (sequencerRow s)) := by
  by_cases hr : s.rstAsserted = true
  · exact .inl ⟨hr, by simp [step, State.nextEvent, hr]⟩
  · rw [Bool.not_eq_true] at hr
    refine .inr ?_
    by_cases hp : s.phase = .idle
    · by_cases hv : s.port.valid = true
      · cases hd : decode (.cmd32 s.port.cmd) with
        | ok i =>
          have hf : ∃ f, i.fields? = some f := by
            simp only [decode, decodeCommand] at hd
            split at hd
            · cases hd
            · split at hd
              · cases hd
              · cases hd
                unfold CmdFields.command
                split <;> exact ⟨_, rfl⟩
          obtain ⟨f, hf⟩ := hf
          refine .inl ⟨hr, hp, i, f, hv, rfl, hf, ?_⟩
          rw [← exec_command hf s]
          exact step_command (by simp [State.nextEvent, hr, hp, State.atPort, hv, hd])
        | error x =>
          exact .inr (.inl ⟨hr, hp, hv, ⟨x, rfl⟩,
            step_illegal (by simp [State.nextEvent, hr, hp, State.atPort, hv, hd])⟩)
      · rw [Bool.not_eq_true] at hv
        exact .inr (.inr (.inl ⟨hr, hp, hv, step_idleWait (by simp [State.nextEvent, hr, hp, State.atPort, hv])⟩))
    · refine .inr (.inr (.inr ⟨hr, hp, ?_⟩))
      cases hb : s.nextBusWord with
      | none => exact step_row (by simp [State.nextEvent, hr, hp, hb])
      | some i =>
        rw [step_busWord (i := i) (by simp [State.nextEvent, hr, hp, hb])]
        exact exec_nextBusWord hb

/-- A run that has ended stays ended (R266): without `rst` no step changes anything of the block. -/
theorem step_ended {s : State} (h : s.ended = true) (hr : s.rstAsserted = false) : step s = .next (idleStep s) := by
  have hp : s.phase = .idle ∧ s.port.valid = false := by
    simp [State.ended, State.finished] at h
    exact ⟨h.1.1.1, h.1.2⟩
  exact step_idleWait (by simp [State.nextEvent, hr, hp.1, State.atPort, hp.2])

end Sys2Proof.Machine
end

