-- ==== Sys2Proof/Laws/Access.lean ====
section
/-!
SUPPORT. An access on an environment that answers ok, row by row and sub-operation by sub-operation: what the rows of R150 make
of a given front of the environment. A result of a whole command is these chained.
-/

namespace Sys2Proof.Machine

/-! ## When a row does not wait -/

theorem waiting_answered {s : State} {a rest} (h : s.env = .rsp a :: rest) : s.waiting = false := by
  simp [State.waiting, h]

theorem waiting_hit {s : State} (h : s.phase = .select) (hc : s.cache = ⟨true, s.lPage⟩) : s.waiting = false := by
  simp [State.waiting, h, (cacheHit_iff s _).2 hc]

theorem cmdReady_answered {s : State} {a rest} (hi : s.phase = .idle) (h : s.env = .rsp a :: rest) :
    s.cmdReady = true := by
  simp [State.cmdReady, State.rstAsserted, hi, h]

/-! ## One row, answered ok -/

theorem runRows_stage {n} {s : State} {x rest} (hp : s.phase = .stage) (he : s.env = .rsp (.ok x) :: rest) :
    runRows (n + 1) s = runRows n
      { s with
        env := rest, trace := s.trace ++ [.w (.data s.slotIdx) (slotWord s.lWdata s.slotIdx)]
        slotIdx := s.slotIdx + 1, phase := if s.slotIdx + 1 = s.nslots then .select else .stage } := by
  rw [runRows_row _ (by simp [hp]) (waiting_answered he), sequencerRow_stage hp, stageRow, busWrite_ok he]
  rfl

theorem runRows_select_hit {n} {s : State} (hp : s.phase = .select) (hc : s.cache = ⟨true, s.lPage⟩) :
    runRows (n + 1) s = runRows n { s with phase := .addr } := by
  rw [runRows_row _ (by simp [hp]) (waiting_hit hp hc), sequencerRow_select hp,
    selectRow_hit ((cacheHit_iff s _).2 hc)]

theorem runRows_select_miss {n} {s : State} {x rest} (hp : s.phase = .select) (hc : s.cache ≠ ⟨true, s.lPage⟩)
    (he : s.env = .rsp (.ok x) :: rest) :
    runRows (n + 1) s = runRows n
      { s with
        env := rest, trace := s.trace ++ [.w .page (pageSelectWord s.lPage)], cache := ⟨true, s.lPage⟩
        phase := .addr } := by
  rw [runRows_row _ (by simp [hp]) (waiting_answered he), sequencerRow_select hp,
    selectRow_miss (by simpa [← cacheHit_iff] using hc), pageSelectWrite, busWrite_ok he]

theorem runRows_addr {n} {s : State} {x rest} (hp : s.phase = .addr) (he : s.env = .rsp (.ok x) :: rest) :
    runRows (n + 1) s = runRows n
      { s with
        env := rest, trace := s.trace ++ [.w .addr (addrWord s.lReg (opcodeOf s.lDir))], pollCnt := 0
        phase := .poll } := by
  rw [runRows_row _ (by simp [hp]) (waiting_answered he), sequencerRow_addr hp, addrRow, addrWrite, busWrite_ok he]

theorem runRows_poll {n} {s : State} {v rest} (hp : s.phase = .poll) (he : s.env = .rsp (.ok v) :: rest) :
    runRows (n + 1) s = runRows n
      (if pollComplete v then pollDone { s with env := rest, trace := s.trace ++ [.r .addr v] }
        else pollPending { s with env := rest, trace := s.trace ++ [.r .addr v] }) := by
  rw [runRows_row _ (by simp [hp]) (waiting_answered he), sequencerRow_poll hp, pollRow, busRead_ok he]

theorem runRows_drain_slot {n} {s : State} {v rest} (hp : s.phase = .drain) (hb : s.lByte = false)
    (he : s.env = .rsp (.ok v) :: rest) (hl : s.slotIdx + 1 ≠ s.nslots) :
    runRows (n + 1) s = runRows n
      { s with
        env := rest, trace := s.trace ++ [.r (.data s.slotIdx) v]
        acc := placeSlot s.acc s.slotIdx v, slotIdx := s.slotIdx + 1 } := by
  rw [runRows_row _ (by simp [hp]) (waiting_answered he), sequencerRow_drain hp, drainRow, if_neg (by simp [hb]),
    drainSlot, busRead_ok he]
  exact congrArg _ (if_neg hl)

theorem runRows_drain_last {n} {s : State} {v rest} (hp : s.phase = .drain) (hb : s.lByte = false)
    (he : s.env = .rsp (.ok v) :: rest) (hl : s.slotIdx + 1 = s.nslots) :
    runRows (n + 1) s = finishRead
      { s with
        env := rest, trace := s.trace ++ [.r (.data s.slotIdx) v]
        acc := placeSlot s.acc s.slotIdx v, slotIdx := s.slotIdx + 1 } := by
  rw [runRows_row _ (by simp [hp]) (waiting_answered he), sequencerRow_drain hp, drainRow, if_neg (by simp [hb]),
    drainSlot, busRead_ok he, ← runRows_idle n (s := finishRead _) rfl]
  exact congrArg _ (if_pos hl)

theorem runRows_drain_byte {n} {s : State} {v rest} (hp : s.phase = .drain) (hb : s.lByte = true)
    (he : s.env = .rsp (.ok v) :: rest) :
    runRows (n + 1) s = finishRead
      { s with
        env := rest, trace := s.trace ++ [.r (.data 0) v], acc := byteOfSlot v, slotIdx := 1 } := by
  rw [runRows_row _ (by simp [hp]) (waiting_answered he), sequencerRow_drain hp, drainRow, if_pos hb, drainByte,
    busRead_ok he, runRows_idle _ rfl]

/-! ## The poll loop and run_op -/

/-- Pending polls below the bound are counted, one pause each (R143). -/
theorem pollPending_below {s : State} (h : s.pollCnt.toNat + 1 < Config.pollMax) :
    pollPending s = { s with pollCnt := s.pollCnt + 1, sleeps := s.sleeps + 1 } := by
  simp [pollPending, h]

/-- The fifth pending poll ends the access with TimeoutError (R146). -/
theorem pollPending_last {s : State} (h : ¬ s.pollCnt.toNat + 1 < Config.pollMax) :
    pollPending s = raise .timeout
      { s with
        pollCnt := s.pollCnt + 1
        sleeps := if Config.sleepAfterLastPoll then s.sleeps + 1 else s.sleeps } := by
  simp [pollPending, h]

/-- A run of pending polls that stays below the bound (R143). -/
theorem runRows_pending (pend : List BusWord) : ∀ {n} {s : State} {rest}, s.phase = .poll →
    s.env = oks pend ++ rest → s.pollCnt.toNat + pend.length < Config.pollMax → (∀ w ∈ pend, pollComplete w = false) →
    runRows (n + pend.length) s = runRows n
      { s with
        env := rest, trace := s.trace ++ pend.map (.r .addr)
        pollCnt := s.pollCnt + BitVec.ofNat 3 pend.length, sleeps := s.sleeps + pend.length } := by
  induction pend with
  | nil =>
    intro n s rest _ he _ _
    simp [oks] at he
    simp [← he]
  | cons w pend ih =>
    intro n s rest hp he hb hw
    simp [oks, Config.pollMax] at he hb
    rw [List.length_cons, ← Nat.add_assoc, runRows_poll hp he, if_neg (by simp [hw w (by simp)]),
      pollPending_below (by simp [Config.pollMax]; omega)]
    rw [ih (rest := rest) (by simp [hp]) (by simp [oks]) (by simp [Config.pollMax]; omega)
      (fun u hu => hw u (by simp [hu]))]
    congr 1
    simp [BitVec.ofNat_add, BitVec.add_assoc, Nat.add_assoc, Nat.add_comm]

/-- The poll loop that sees completion in time (R143, R145). -/
theorem runRows_polls {pend : List BusWord} {v : BusWord} {n} {s : State} {rest} (hp : s.phase = .poll)
    (h0 : s.pollCnt = 0) (hc : CompletesAfter pend v) (he : s.env = oks (pend ++ [v]) ++ rest) :
    runRows (n + (pend.length + 1)) s = runRows n (pollDone
      { s with
        env := rest, trace := s.trace ++ pend.map (.r .addr) ++ [.r .addr v]
        pollCnt := BitVec.ofNat 3 pend.length, sleeps := s.sleeps + pend.length }) := by
  obtain ⟨hl, hw, hv⟩ := hc
  rw [show n + (pend.length + 1) = (n + 1) + pend.length by omega,
    runRows_pending pend (rest := .rsp (.ok v) :: rest) hp (by simp [he, oks]) (by simpa [h0] using hl) hw,
    runRows_poll (by simpa using hp) rfl, if_pos hv]
  simp [h0]

/-- run_op that succeeds, from SELECT on (R140): page select, trigger and polls, then what a seen completion does. -/
theorem runRows_runOp {pend : List BusWord} {x y v : BusWord} {n} {s : State} {rest} (hp : s.phase = .select)
    (hc : CompletesAfter pend v) (he : s.env = s.runOpAnswers s.lPage x y pend v ++ rest) :
    runRows (n + (pend.length + 3)) s = runRows n (pollDone
      { s with
        env := rest, trace := s.trace ++ s.runOpTrace s.lPage s.lReg (opcodeOf s.lDir) pend v
        cache := ⟨true, s.lPage⟩, phase := .poll
        pollCnt := BitVec.ofNat 3 pend.length, sleeps := s.sleeps + pend.length }) := by
  rw [show n + (pend.length + 3) = (n + (pend.length + 1) + 1) + 1 by omega]
  by_cases hs : s.cache = ⟨true, s.lPage⟩
  · simp only [State.runOpAnswers, State.selectAnswer, hs, if_true] at he
    rw [runRows_select_hit hp hs, runRows_addr (x := y) (rest := oks (pend ++ [v]) ++ rest) rfl (by simpa [oks] using he),
      runRows_polls rfl rfl hc (rest := rest) (by simp)]
    simp [State.runOpTrace, State.selectTrace, hs]
  · simp only [State.runOpAnswers, State.selectAnswer, hs, if_false] at he
    rw [runRows_select_miss (x := x) (rest := oks (y :: pend ++ [v]) ++ rest) hp hs (by simpa [oks] using he),
      runRows_addr (x := y) (rest := oks (pend ++ [v]) ++ rest) rfl (by simp [oks]), runRows_polls rfl rfl hc (rest := rest) (by simp [oks])]
    simp [State.runOpTrace, State.selectTrace, hs]

end Sys2Proof.Machine
end

