-- ==== Sys2Proof/Laws/PerInstr.lean ====
section
/-!
SUPPORT. The words of the encoding tables bit by bit, and statements about every instruction as syntax, one lemma per
constructor. Family TableMatch: an instruction is well formed and its word lies in its own row of spec/opcode_table.json, with
its operands in their fields.
-/

namespace Sys2Proof.Laws.TableMatch

/-- A CMD32 word in the row of a given match value under mask 0xFFFF0000 (R103), with PAGE and REG where R101 puts them. -/
def inRow (w : CmdWord) (rowMatch : CmdWord) (page : Page) (reg : LReg) : Prop :=
  w &&& 0xFFFF0000#32 = rowMatch ∧ w.extractLsb' 8 8 = page ∧ w.extractLsb' 0 8 = reg

/-- A BUS16 word in the row of a given match value under mask 0x00FF (R110 to R112), with its operand in bits [15:8]. -/
def inBusRow (w : BusWord) (rowMatch : BusWord) (operand : BitVec 8) : Prop :=
  w &&& 0x00FF#16 = rowMatch ∧ w.extractLsb' 8 8 = operand

/-- The instruction's word is in the instruction's row of the table. -/
def Statement (i : Instr) : Prop :=
  i.wf = true ∧
  match i, encode i with
  | .read8 p r, .cmd32 w => inRow w 0x00040000#32 p r
  | .read16 p r, .cmd32 w => inRow w 0x00000000#32 p r
  | .read32 p r, .cmd32 w => inRow w 0x00010000#32 p r
  | .read48 p r, .cmd32 w => inRow w 0x00020000#32 p r
  | .read64 p r, .cmd32 w => inRow w 0x00030000#32 p r
  | .write8 p r, .cmd32 w => inRow w 0x000C0000#32 p r
  | .write16 p r, .cmd32 w => inRow w 0x00080000#32 p r
  | .write32 p r, .cmd32 w => inRow w 0x00090000#32 p r
  | .write48 p r, .cmd32 w => inRow w 0x000A0000#32 p r
  | .write64 p r, .cmd32 w => inRow w 0x000B0000#32 p r
  | .busPageSelect p, .bus16 q w => q = .page ∧ inBusRow w 0x0001#16 p
  | .busAddrRead r, .bus16 q w => q = .addr ∧ inBusRow w 0x0002#16 r
  | .busAddrWrite r, .bus16 q w => q = .addr ∧ inBusRow w 0x0001#16 r
  | _, _ => False

/-- A bit of a command's word: REG, then PAGE, then the row's match. -/
theorem commandWord_getLsbD (m : CmdWord) (p : Page) (r : LReg) (k : Nat) :
    (commandWord m p r).getLsbD k =
      (m.getLsbD k || (decide (8 ≤ k) && p.getLsbD (k - 8)) || r.getLsbD k) := by
  by_cases h : k < 32
  · by_cases h8 : 8 ≤ k
    · simp [commandWord, h, h8, Nat.not_lt.mpr h8]
    · simp [commandWord, h, h8, Nat.not_le.mp h8]
  · simp [commandWord, BitVec.getLsbD_of_ge _ _ (Nat.not_lt.mp h), BitVec.getLsbD_of_ge r k (by omega), BitVec.getLsbD_of_ge p (k - 8) (by omega)]

/-- A word in a row whose low half is clear carries PAGE and REG unchanged and the row's match above them. -/
theorem commandWord_inRow (m : CmdWord) (p : Page) (r : LReg) (h : m &&& 0xFFFF0000#32 = m) :
    inRow (commandWord m p r) m p r := by
  have low : ∀ k, k < 16 → m.getLsbD k = false := by
    intro k hk
    have := congrArg (·.getLsbD k) h
    interval_cases k <;> simpa using this.symm
  refine ⟨?_, ?_, ?_⟩
  · refine Eq.trans ?_ h
    apply BitVec.eq_of_getLsbD_eq
    intro k hk
    rw [BitVec.getLsbD_and, BitVec.getLsbD_and, commandWord_getLsbD]
    interval_cases k <;> simp
  · apply BitVec.eq_of_getLsbD_eq
    intro k hk
    rw [BitVec.getLsbD_extractLsb', commandWord_getLsbD, low _ (by omega)]
    simp [hk]
  · apply BitVec.eq_of_getLsbD_eq
    intro k hk
    rw [BitVec.getLsbD_extractLsb', commandWord_getLsbD, low _ (by omega)]
    simp [hk, show ¬ 8 ≤ k by omega]

/-- A bus word carries its operand above its low byte. -/
theorem tableBusWord_inBusRow (a : BitVec 8) (m : BusWord) (h : m &&& 0x00FF#16 = m) :
    inBusRow (tableBusWord a m) m a := by
  have high : ∀ k, 8 ≤ k → k < 16 → m.getLsbD k = false := by
    intro k h8 hk
    have := congrArg (·.getLsbD k) h
    interval_cases k <;> simpa using this.symm
  refine ⟨?_, ?_⟩
  · refine Eq.trans ?_ h
    apply BitVec.eq_of_getLsbD_eq
    intro k hk
    rw [tableBusWord, BitVec.getLsbD_and, BitVec.getLsbD_and, BitVec.getLsbD_or]
    interval_cases k <;> simp
  · apply BitVec.eq_of_getLsbD_eq
    intro k hk
    rw [BitVec.getLsbD_extractLsb']
    have hm := high (8 + k) (by omega) (by omega)
    rw [tableBusWord, BitVec.getLsbD_or, hm]
    simp [hk, show 8 + k < 16 by omega]

theorem read8 (p : Page) (r : LReg) : Statement (.read8 p r) :=
  ⟨rfl, commandWord_inRow _ p r (by decide)⟩

theorem read16 (p : Page) (r : LReg) : Statement (.read16 p r) :=
  ⟨rfl, commandWord_inRow _ p r (by decide)⟩

theorem read32 (p : Page) (r : LReg) : Statement (.read32 p r) :=
  ⟨rfl, commandWord_inRow _ p r (by decide)⟩

theorem read48 (p : Page) (r : LReg) : Statement (.read48 p r) :=
  ⟨rfl, commandWord_inRow _ p r (by decide)⟩

theorem read64 (p : Page) (r : LReg) : Statement (.read64 p r) :=
  ⟨rfl, commandWord_inRow _ p r (by decide)⟩

theorem write8 (p : Page) (r : LReg) : Statement (.write8 p r) :=
  ⟨rfl, commandWord_inRow _ p r (by decide)⟩

theorem write16 (p : Page) (r : LReg) : Statement (.write16 p r) :=
  ⟨rfl, commandWord_inRow _ p r (by decide)⟩

theorem write32 (p : Page) (r : LReg) : Statement (.write32 p r) :=
  ⟨rfl, commandWord_inRow _ p r (by decide)⟩

theorem write48 (p : Page) (r : LReg) : Statement (.write48 p r) :=
  ⟨rfl, commandWord_inRow _ p r (by decide)⟩

theorem write64 (p : Page) (r : LReg) : Statement (.write64 p r) :=
  ⟨rfl, commandWord_inRow _ p r (by decide)⟩

theorem busPageSelect (p : Page) : Statement (.busPageSelect p) :=
  ⟨rfl, rfl, tableBusWord_inBusRow p _ (by decide)⟩

theorem busAddrRead (r : LReg) : Statement (.busAddrRead r) :=
  ⟨rfl, rfl, tableBusWord_inBusRow r _ (by decide)⟩

theorem busAddrWrite (r : LReg) : Statement (.busAddrWrite r) :=
  ⟨rfl, rfl, tableBusWord_inBusRow r _ (by decide)⟩

end Sys2Proof.Laws.TableMatch
end

