-- ==== Sys2Proof/Laws/Progress.lean ====
section
/-!
SUPPORT. Everything an access can do on any environment, said once: where it can stand (its site), what one row of R150 makes of
a site, and how the access ends. What a claim says of every run of a command follows from `access_endings`.
-/

namespace Sys2Proof.Machine

/-- Where an access in flight stands, with what it has seen so far. -/
inductive Site where
  /-- `j` slots are staged. -/
  | stage (j : Nat)
  | select
  | addr
  /-- The trigger was written and these polls saw pending. -/
  | poll (pend : List BusWord)
  /-- Poll `v` saw completion and these slot words were read. -/
  | drain (pend : List BusWord) (v : BusWord) (words : List BusWord)

/-- The staging writes of the first `n` slots of a value. -/
def stagedTrace (value : Value) (n : Nat) : List BusEvent :=
  (List.range n).map fun k => .w (.data (BitVec.ofNat 3 k)) (slotWord value (BitVec.ofNat 3 k))

/-- The slot reads that returned these words. -/
def drainedTrace (words : List BusWord) : List BusEvent :=
  words.mapIdx fun k v => .r (.data (BitVec.ofNat 3 k)) v

/-- The value assembled from the first slot words (R161). -/
def assembled (words : List BusWord) : Value :=
  (words.mapIdx fun k v => (k, v)).foldl (fun acc p => placeSlot acc (BitVec.ofNat 3 p.1) p.2) 0

/-- How many slots a command stages (R181): none for a read. -/
def stagedSlots (f : CmdFields) : Nat :=
  if f.dir then f.nslot.toNat + 1 else 0

/-- The transactions of an access up to its site, all answered ok. -/
def Site.trace (f : CmdFields) (s : State) : Site → List BusEvent
  | .stage j => stagedTrace s.port.wdata j
  | .select => stagedTrace s.port.wdata (stagedSlots f)
  | .addr => stagedTrace s.port.wdata (stagedSlots f) ++ s.selectTrace f.page
  | .poll pend =>
    stagedTrace s.port.wdata (stagedSlots f) ++ s.selectTrace f.page ++ [.w .addr (addrWord f.reg (opcodeOf f.dir))]
      ++ pend.map (.r .addr)
  | .drain pend v words =>
    stagedTrace s.port.wdata (stagedSlots f) ++ s.selectTrace f.page ++ [.w .addr (addrWord f.reg (opcodeOf f.dir))]
      ++ pend.map (.r .addr) ++ [.r .addr v] ++ drainedTrace words

/-- The transaction made at a site, failed with `e`. -/
def Site.failure (f : CmdFields) (s : State) (e : ErrT) : Site → BusEvent
  | .stage j => .wErr (.data (BitVec.ofNat 3 j)) (slotWord s.port.wdata (BitVec.ofNat 3 j)) e
  | .select => .wErr .page (pageSelectWord f.page) e
  | .addr => .wErr .addr (addrWord f.reg (opcodeOf f.dir)) e
  | .poll _ => .rErr .addr e
  | .drain _ _ words => .rErr (.data (BitVec.ofNat 3 words.length)) e

/-- PAGE_CACHE at a site: what it was before the page select, then the page. -/
def Site.cache (f : CmdFields) (s : State) : Site → PageCache
  | .stage _ => s.cache
  | .select => s.cache
  | .addr => ⟨true, f.page⟩
  | .poll _ => ⟨true, f.page⟩
  | .drain _ _ _ => ⟨true, f.page⟩

/-- PHASE at a site (R26). -/
def Site.phase : Site → Phase
  | .stage _ => .stage
  | .select => .select
  | .addr => .addr
  | .poll _ => .poll
  | .drain _ _ _ => .drain

/-- The bounds of a site. -/
def Site.wf (f : CmdFields) : Site → Prop
  | .stage j => f.dir = true ∧ j ≤ f.nslot.toNat
  | .select => True
  | .addr => True
  | .poll pend => pend.length < Config.pollMax ∧ ∀ w ∈ pend, pollComplete w = false
  | .drain pend v words => f.dir = false ∧ CompletesAfter pend v ∧ words.length ≤ f.nslot.toNat

/-- The counters and the value being assembled at a site. -/
def Site.counters (t : State) : Site → Prop
  | .stage j => t.slotIdx = BitVec.ofNat 3 j
  | .select => True
  | .addr => True
  | .poll pend => t.pollCnt = BitVec.ofNat 3 pend.length
  | .drain pend _ words =>
    t.pollCnt = BitVec.ofNat 3 pend.length ∧ t.slotIdx = BitVec.ofNat 3 words.length ∧ t.acc = assembled words

/-- What every later moment of an access from `s` keeps, from the accept to after its end: the latches, and the host's side of
the handshake. -/
structure Carries (f : CmdFields) (s t : State) : Prop where
  holds : t.holds f
  wdata : f.dir = true → t.lWdata = s.port.wdata
  port : t.port = s.presentNext.port
  program : t.program = s.presentNext.program

/-- The access of `f` accepted in `s` stands at this site in `t`. -/
structure StandsAt (f : CmdFields) (s : State) (site : Site) (t : State) : Prop where
  carries : Carries f s t
  wf : site.wf f
  counters : site.counters t
  phase : t.phase = site.phase
  trace : t.trace = s.trace ++ site.trace f s
  cache : t.cache = site.cache f s
  done : t.done = false
  status : t.status = s.status
  errInfo : t.errInfo = s.errInfo

/-- The access ended with OK: a write at a completed poll, a read after its last slot. -/
structure EndsOk (f : CmdFields) (s t : State) (pend : List BusWord) (v : BusWord) (words : List BusWord) : Prop where
  carries : Carries f s t
  completes : CompletesAfter pend v
  count : words.length = if f.dir then 0 else f.nslot.toNat + 1
  rdata : f.dir = false → t.rdata = if f.byte then byteOfSlot (words.headD 0) else assembled words
  phase : t.phase = .idle
  trace : t.trace = s.trace ++ Site.trace f s (.drain pend v words)
  cache : t.cache = ⟨true, f.page⟩
  done : t.done = true
  status : t.status = .ok

/-- The access ended with TransportError(e) at this site. -/
structure EndsInError (f : CmdFields) (s : State) (site : Site) (e : ErrT) (t : State) : Prop where
  carries : Carries f s t
  wf : site.wf f
  phase : t.phase = .idle
  trace : t.trace = s.trace ++ site.trace f s ++ [site.failure f s e]
  cache : t.cache = site.cache f s
  done : t.done = true
  status : t.status = .transport
  errInfo : t.errInfo = e

/-- The access ended with TimeoutError: five polls saw pending. -/
structure EndsInTimeout (f : CmdFields) (s : State) (pend : List BusWord) (t : State) : Prop where
  carries : Carries f s t
  length : pend.length = Config.pollMax
  pending : ∀ w ∈ pend, pollComplete w = false
  phase : t.phase = .idle
  trace : t.trace = s.trace ++ Site.trace f s (.poll pend)
  cache : t.cache = ⟨true, f.page⟩
  done : t.done = true
  status : t.status = .timeout
  pollCnt : t.pollCnt = 5

/-- `rst` abandoned the access at this site. -/
structure EndsInReset (f : CmdFields) (s : State) (site : Site) (t : State) : Prop where
  wf : site.wf f
  port : t.port = s.presentNext.port
  program : t.program = s.presentNext.program
  phase : t.phase = .idle
  trace : t.trace = s.trace ++ site.trace f s ++ [.rst]
  cache : t.cache = ⟨false, 0xFF⟩
  done : t.done = false
  status : t.status = .ok

/-- What can have become of the access of `f` accepted in `s`: it stands at a site, or ended in one of four ways. -/
inductive Ending (f : CmdFields) (s t : State) : Prop where
  | stands (site : Site) (h : StandsAt f s site t)
  | ok (pend : List BusWord) (v : BusWord) (words : List BusWord) (h : EndsOk f s t pend v words)
  | transport (site : Site) (e : ErrT) (h : EndsInError f s site e t)
  | timeout (pend : List BusWord) (h : EndsInTimeout f s pend t)
  | reset (site : Site) (h : EndsInReset f s site t)

/-! ## Small lemmas of the traces -/

@[simp] theorem stagedTrace_zero (value : Value) : stagedTrace value 0 = [] := rfl

theorem stagedTrace_succ (value : Value) (n : Nat) : stagedTrace value (n + 1) =
    stagedTrace value n ++ [.w (.data (BitVec.ofNat 3 n)) (slotWord value (BitVec.ofNat 3 n))] := by
  simp [stagedTrace, List.range_succ]

@[simp] theorem drainedTrace_nil : drainedTrace [] = [] := rfl

theorem drainedTrace_append (words : List BusWord) (v : BusWord) : drainedTrace (words ++ [v]) =
    drainedTrace words ++ [.r (.data (BitVec.ofNat 3 words.length)) v] := by
  simp [drainedTrace, List.mapIdx_append]

@[simp] theorem assembled_nil : assembled [] = 0 := rfl

theorem assembled_append (words : List BusWord) (v : BusWord) : assembled (words ++ [v]) =
    placeSlot (assembled words) (BitVec.ofNat 3 words.length) v := by
  simp [assembled, List.mapIdx_append]

theorem drain_nil_trace (f : CmdFields) (s : State) (pend : List BusWord) (v : BusWord) :
    Site.trace f s (.drain pend v []) = Site.trace f s (.poll pend) ++ [.r .addr v] := by
  simp [Site.trace]

theorem drain_append_trace (f : CmdFields) (s : State) (pend : List BusWord) (v : BusWord) (words : List BusWord)
    (w : BusWord) : Site.trace f s (.drain pend v (words ++ [w])) =
      Site.trace f s (.drain pend v words) ++ [.r (.data (BitVec.ofNat 3 words.length)) w] := by
  simp [Site.trace, drainedTrace_append]

theorem poll_append_trace (f : CmdFields) (s : State) (pend : List BusWord) (w : BusWord) :
    Site.trace f s (.poll (pend ++ [w])) = Site.trace f s (.poll pend) ++ [.r .addr w] := by
  simp [Site.trace]

/-! ## One row at a site -/

theorem nslots_toNat {f : CmdFields} {t : State} (h : t.holds f) : t.nslots = BitVec.ofNat 3 (f.nslot.toNat + 1) := by
  apply BitVec.eq_of_toNat_eq
  simp [State.nslots, h.2.2.1]

theorem raise_ending {f : CmdFields} {s t : State} {site : Site} {e : ErrT} (h : StandsAt f s site t) {rest} :
    Ending f s (raise (.transport e)
      { t with env := rest, trace := t.trace ++ [site.failure f s e] }) :=
  .transport site e
    { carries := ⟨h.carries.holds, h.carries.wdata, h.carries.port, h.carries.program⟩
      wf := h.wf, phase := rfl, trace := by simp [raise, h.trace], cache := h.cache, done := rfl, status := rfl
      errInfo := rfl }

theorem reset_ending {f : CmdFields} {s t : State} {site : Site} (h : StandsAt f s site t) {rest} :
    Ending f s (resetRegisters { t with env := rest }) :=
  .reset site
    { wf := h.wf, port := h.carries.port, program := h.carries.program, phase := rfl
      trace := by simp [resetRegisters, h.trace], cache := rfl, done := rfl, status := rfl }

theorem waits_ending {f : CmdFields} {s t : State} {site : Site} (h : StandsAt f s site t) {rest} :
    Ending f s { t with env := rest } := by
  refine .stands site ⟨⟨h.carries.holds, h.carries.wdata, h.carries.port, h.carries.program⟩, h.wf, ?_, h.phase, h.trace,
    h.cache, h.done, h.status, h.errInfo⟩
  have := h.counters
  cases site <;> exact this

/-- Moving to a later site on a state that differs from `t` in what the rows write only. -/
theorem moved {f : CmdFields} {s t u : State} {site site' : Site} (h : StandsAt f s site t) (hw : site'.wf f)
    (hc : site'.counters u) (hp : u.phase = site'.phase) (ht : u.trace = s.trace ++ site'.trace f s)
    (hcache : u.cache = site'.cache f s) (hl : u.lDir = t.lDir ∧ u.lByte = t.lByte ∧ u.lNslot = t.lNslot ∧
      u.lPage = t.lPage ∧ u.lReg = t.lReg ∧ u.lWdata = t.lWdata ∧ u.port = t.port ∧ u.program = t.program)
    (hf : u.done = t.done ∧ u.status = t.status ∧ u.errInfo = t.errInfo) : StandsAt f s site' u := by
  obtain ⟨h1, h2, h3, h4, h5, h6, h7, h8⟩ := hl
  obtain ⟨g1, g2, g3⟩ := hf
  obtain ⟨⟨⟨c1, c2, c3, c4, c5⟩, cw, cp, cq⟩, -, -, -, -, -, d, st, e⟩ := h
  exact ⟨⟨⟨h1.trans c1, h2.trans c2, h3.trans c3, h4.trans c4, h5.trans c5⟩, fun hd => h6.trans (cw hd), h7.trans cp,
    h8.trans cq⟩, hw, hc, hp, ht, hcache, g1.trans d, g2.trans st, g3.trans e⟩

theorem stage_ending {f : CmdFields} {s t : State} {j : Nat} (h : StandsAt f s (.stage j) t) :
    Ending f s (stageRow t) := by
  have hw := h.wf
  have hx := h.carries.wdata hw.1
  have hi : t.slotIdx = BitVec.ofNat 3 j := h.counters
  rcases busWrite_cases (.data t.slotIdx) (slotWord t.lWdata t.slotIdx) (fun t => { t with
      slotIdx := t.slotIdx + 1
      phase   := if t.slotIdx + 1 = t.nslots then .select else .stage }) t with
    ⟨-, hb⟩ | ⟨rest, -, hb⟩ | ⟨rest, -, hb⟩ | ⟨x, rest, -, hb⟩ | ⟨e, rest, -, hb⟩ <;> rw [stageRow, hb]
  · exact .stands _ h
  · exact waits_ending h
  · exact reset_ending h
  · have hn := nslots_toNat h.carries.holds
    have hj : j ≤ f.nslot.toNat := hw.2
    have hlt := f.nslot.isLt
    by_cases hl : j = f.nslot.toNat
    · refine .stands .select (moved h trivial trivial ?_ ?_ h.cache ⟨rfl, rfl, rfl, rfl, rfl, rfl, rfl, rfl⟩ ⟨rfl, rfl, rfl⟩)
      · have : t.slotIdx + 1 = t.nslots := by
          rw [hn, hi, hl, BitVec.ofNat_add]
          rfl
        exact if_pos this
      · simp [h.trace, Site.trace, stagedSlots, hw.1, hx, hi, hl, stagedTrace_succ]
    · refine .stands (.stage (j + 1)) (moved h ⟨hw.1, by omega⟩ ?_ ?_ ?_ h.cache ⟨rfl, rfl, rfl, rfl, rfl, rfl, rfl, rfl⟩
        ⟨rfl, rfl, rfl⟩)
      · simp [Site.counters, hi, BitVec.ofNat_add]
      · have : ¬ t.slotIdx + 1 = t.nslots := by
          rw [hn, hi]
          intro he
          have := congrArg BitVec.toNat he
          simp at this
          omega
        exact if_neg this
      · simp [h.trace, Site.trace, hx, hi, stagedTrace_succ]
  · simpa [Site.failure, hi, hx] using raise_ending h (e := e) (rest := rest)

theorem select_ending {f : CmdFields} {s t : State} (h : StandsAt f s .select t) : Ending f s (selectRow t) := by
  have hp : t.lPage = f.page := h.carries.holds.2.2.2.1
  have hc : t.cache = s.cache := h.cache
  by_cases hit : t.cache = ⟨true, t.lPage⟩
  · rw [selectRow_hit ((cacheHit_iff _ _).2 hit)]
    have hs : s.cache = ⟨true, f.page⟩ := by rw [← hc, hit, hp]
    exact .stands .addr (moved h trivial trivial rfl (by simp [h.trace, Site.trace, State.selectTrace, hs])
      (by rw [Site.cache, ← hs, ← hc]) ⟨rfl, rfl, rfl, rfl, rfl, rfl, rfl, rfl⟩ ⟨rfl, rfl, rfl⟩)
  · rw [selectRow_miss (by simpa [← cacheHit_iff] using hit)]
    have hs : s.cache ≠ ⟨true, f.page⟩ := by rw [← hc, ← hp]; exact hit
    rcases busWrite_cases .page (pageSelectWord t.lPage) (fun u => { u with cache := ⟨true, t.lPage⟩, phase := .addr }) t with
      ⟨-, hb⟩ | ⟨rest, -, hb⟩ | ⟨rest, -, hb⟩ | ⟨x, rest, -, hb⟩ | ⟨e, rest, -, hb⟩ <;> rw [pageSelectWrite, hb]
    · exact .stands _ h
    · exact waits_ending h
    · exact reset_ending h
    · exact .stands .addr (moved h trivial trivial rfl (by simp [h.trace, Site.trace, State.selectTrace, hs, hp])
        (by simp [Site.cache, hp]) ⟨rfl, rfl, rfl, rfl, rfl, rfl, rfl, rfl⟩ ⟨rfl, rfl, rfl⟩)
    · simpa [Site.failure, hp] using raise_ending h (e := e) (rest := rest)

theorem addr_ending {f : CmdFields} {s t : State} (h : StandsAt f s .addr t) : Ending f s (addrRow t) := by
  have hd : t.lDir = f.dir := h.carries.holds.1
  have hr : t.lReg = f.reg := h.carries.holds.2.2.2.2
  rcases busWrite_cases .addr (addrWord t.lReg (opcodeOf t.lDir)) (fun u => { u with pollCnt := 0, phase := .poll }) t with
    ⟨-, hb⟩ | ⟨rest, -, hb⟩ | ⟨rest, -, hb⟩ | ⟨x, rest, -, hb⟩ | ⟨e, rest, -, hb⟩ <;> rw [addrRow, addrWrite, hb]
  · exact .stands _ h
  · exact waits_ending h
  · exact reset_ending h
  · exact .stands (.poll []) (moved h ⟨by simp [Config.pollMax], by simp⟩ rfl rfl (by simp [h.trace, Site.trace, hd, hr])
      h.cache ⟨rfl, rfl, rfl, rfl, rfl, rfl, rfl, rfl⟩ ⟨rfl, rfl, rfl⟩)
  · simpa [Site.failure, hd, hr] using raise_ending h (e := e) (rest := rest)

/-- A poll answered ok at a site (R143, R145, R146). -/
theorem poll_answered {f : CmdFields} {s t : State} {pend : List BusWord} (h : StandsAt f s (.poll pend) t) (v : BusWord)
    (rest : List EnvEvent) :
    Ending f s (if pollComplete v then pollDone { t with env := rest, trace := t.trace ++ [.r .addr v] }
      else pollPending { t with env := rest, trace := t.trace ++ [.r .addr v] }) := by
  obtain ⟨hlen, hpend⟩ : pend.length < Config.pollMax ∧ ∀ w ∈ pend, pollComplete w = false := h.wf
  have hlen' : pend.length < 5 := hlen
  have hcnt : t.pollCnt = BitVec.ofNat 3 pend.length := h.counters
  have hcn : t.pollCnt.toNat = pend.length := by simp [hcnt]; omega
  have hdir : t.lDir = f.dir := h.carries.holds.1
  by_cases hv : pollComplete v = true
  · rw [if_pos hv]
    cases hd : f.dir
    · refine .stands (.drain pend v []) (moved h ⟨hd, ⟨hlen, hpend, hv⟩, by simp⟩ ?_ ?_ ?_ ?_ ?_ ?_) <;>
        simp [pollDone, hdir, hd, Site.counters, hcnt, Site.phase, h.trace, drain_nil_trace, h.cache, Site.cache]
    · exact .ok pend v [] { carries := ⟨by simpa [pollDone, hdir, hd, State.holds] using h.carries.holds,
            by simpa [pollDone, hdir, hd] using h.carries.wdata, by simpa [pollDone, hdir, hd] using h.carries.port,
            by simpa [pollDone, hdir, hd] using h.carries.program⟩
                            completes := ⟨hlen, hpend, hv⟩
                            count := by simp [hd]
                            rdata := by simp [hd]
                            phase := by simp [pollDone, hdir, hd]
                            trace := by simp [pollDone, hdir, hd, h.trace, drain_nil_trace]
                            cache := by simp [pollDone, hdir, hd, h.cache, Site.cache]
                            done := by simp [pollDone, hdir, hd]
                            status := by simp [pollDone, hdir, hd] }
  · rw [if_neg hv]
    rw [Bool.not_eq_true] at hv
    have hall : ∀ w ∈ pend ++ [v], pollComplete w = false := by
      intro w hw
      rcases List.mem_append.1 hw with hw | hw
      · exact hpend w hw
      · simpa [List.mem_singleton.1 hw] using hv
    by_cases hb : pend.length + 1 < Config.pollMax
    · rw [pollPending_below (by simpa [hcn] using hb)]
      exact .stands (.poll (pend ++ [v])) (moved h ⟨by simpa using hb, hall⟩
        (by simp [Site.counters, hcnt, BitVec.ofNat_add]) h.phase (by simp [h.trace, poll_append_trace]) h.cache
        ⟨rfl, rfl, rfl, rfl, rfl, rfl, rfl, rfl⟩ ⟨rfl, rfl, rfl⟩)
    · rw [pollPending_last (by simpa [hcn] using hb)]
      have h4 : pend.length = 4 := by simp only [Config.pollMax] at hb; omega
      exact .timeout (pend ++ [v]) { carries := ⟨h.carries.holds, h.carries.wdata, h.carries.port, h.carries.program⟩
                                     length := by simp [h4, Config.pollMax]
                                     pending := hall
                                     phase := rfl
                                     trace := by simp [h.trace, poll_append_trace]
                                     cache := h.cache
                                     done := rfl
                                     status := rfl
                                     pollCnt := by simp [hcnt, h4] }

theorem poll_ending {f : CmdFields} {s t : State} {pend : List BusWord} (h : StandsAt f s (.poll pend) t) :
    Ending f s (pollRow t) := by
  rcases busRead_cases .addr (fun v t => if pollComplete v then pollDone t else pollPending t) t with
    ⟨-, hb⟩ | ⟨rest, -, hb⟩ | ⟨rest, -, hb⟩ | ⟨x, rest, -, hb⟩ | ⟨e, rest, -, hb⟩ <;> rw [pollRow, hb]
  · exact .stands _ h
  · exact waits_ending h
  · exact reset_ending h
  · exact poll_answered h x rest
  · exact raise_ending h

/-- The end of a read after its last slot (R161). -/
theorem finishRead_ending {f : CmdFields} {s t u : State} {pend : List BusWord} {v : BusWord} {words : List BusWord}
    {w : BusWord} (h : StandsAt f s (.drain pend v words) t) (hl : words.length = f.nslot.toNat)
    (hu : u.lDir = t.lDir ∧ u.lByte = t.lByte ∧ u.lNslot = t.lNslot ∧ u.lPage = t.lPage ∧ u.lReg = t.lReg ∧
      u.lWdata = t.lWdata ∧ u.port = t.port ∧ u.program = t.program) (hc : u.cache = t.cache)
    (ht : u.trace = t.trace ++ [.r (.data (BitVec.ofNat 3 words.length)) w])
    (ha : u.acc = if f.byte then byteOfSlot ((words ++ [w]).headD 0) else assembled (words ++ [w])) :
    Ending f s (finishRead u) := by
  obtain ⟨h1, h2, h3, h4, h5, h6, h7, h8⟩ := hu
  obtain ⟨hd, hcomp, -⟩ : f.dir = false ∧ CompletesAfter pend v ∧ words.length ≤ f.nslot.toNat := h.wf
  obtain ⟨⟨c1, c2, c3, c4, c5⟩, cw, cp, cq⟩ := h.carries
  exact .ok pend v (words ++ [w]) { carries := ⟨⟨h1.trans c1, h2.trans c2, h3.trans c3, h4.trans c4, h5.trans c5⟩,
                                      fun hd => h6.trans (cw hd), h7.trans cp, h8.trans cq⟩
                                    completes := hcomp
                                    count := by simp [hd, hl]
                                    rdata := fun _ => ha
                                    phase := rfl
                                    trace := by simp [ht, h.trace, drain_append_trace]
                                    cache := by simp [hc, h.cache, Site.cache]
                                    done := rfl
                                    status := rfl }

theorem drain_ending {f : CmdFields} (hlegal : f.legal = true) {s t : State} {pend : List BusWord} {v : BusWord}
    {words : List BusWord} (h : StandsAt f s (.drain pend v words) t) : Ending f s (drainRow t) := by
  obtain ⟨hd, hcomp, hle⟩ : f.dir = false ∧ CompletesAfter pend v ∧ words.length ≤ f.nslot.toNat := h.wf
  obtain ⟨-, hi, ha⟩ : t.pollCnt = BitVec.ofNat 3 pend.length ∧ t.slotIdx = BitVec.ofNat 3 words.length ∧
    t.acc = assembled words := h.counters
  have hbyte : t.lByte = f.byte := h.carries.holds.2.1
  have hn := nslots_toNat h.carries.holds
  have hlt := f.nslot.isLt
  rw [drainRow]
  cases hb : f.byte
  · rw [if_neg (by simp [hbyte, hb])]
    rcases henv : t.env with _ | ⟨(x | e) | _ | _, rest⟩
    · rw [drainSlot, busRead_nil henv]
      exact .stands _ h
    · rw [drainSlot, busRead_ok henv]
      by_cases hl : words.length = f.nslot.toNat
      · have he : t.slotIdx + 1 = t.nslots := by
          rw [hn, hi, hl, BitVec.ofNat_add]
          rfl
        rw [if_pos (by exact he)]
        exact finishRead_ending (w := x) h hl ⟨rfl, rfl, rfl, rfl, rfl, rfl, rfl, rfl⟩ rfl (by simp [hi])
          (by simp [hb, ha, hi, assembled_append])
      · have he : ¬ t.slotIdx + 1 = t.nslots := by
          rw [hn, hi]
          intro he
          have := congrArg BitVec.toNat he
          simp at this
          omega
        rw [if_neg (by exact he)]
        exact .stands (.drain pend v (words ++ [x])) (moved h ⟨hd, hcomp, by simp; omega⟩
          ⟨h.counters.1, by simp [hi, BitVec.ofNat_add], by simp [ha, hi, assembled_append]⟩ h.phase
          (by simp [h.trace, hi, drain_append_trace]) h.cache ⟨rfl, rfl, rfl, rfl, rfl, rfl, rfl, rfl⟩ ⟨rfl, rfl, rfl⟩)
    · rw [drainSlot, busRead_err henv]
      simpa [Site.failure, hi] using raise_ending h (e := e) (rest := rest)
    · rw [drainSlot, busRead_silent henv]
      exact waits_ending h
    · rw [drainSlot, busRead_rst henv]
      exact reset_ending h
  · rw [if_pos (by simp [hbyte, hb])]
    have h0 : f.nslot.toNat = 0 := by
      have : f.nslot = 0 := by simpa [CmdFields.legal, hb] using (Bool.and_eq_true_iff.1 hlegal).2
      simp [this]
    have hw : words = [] := List.length_eq_zero_iff.1 (by omega)
    subst hw
    rcases busRead_cases (.data 0) (fun v t => finishRead { t with acc := byteOfSlot v, slotIdx := 1 }) t with
      ⟨-, hr⟩ | ⟨rest, -, hr⟩ | ⟨rest, -, hr⟩ | ⟨x, rest, -, hr⟩ | ⟨e, rest, -, hr⟩ <;> rw [drainByte, hr]
    · exact .stands _ h
    · exact waits_ending h
    · exact reset_ending h
    · exact finishRead_ending (w := x) h (by simp [h0]) ⟨rfl, rfl, rfl, rfl, rfl, rfl, rfl, rfl⟩ rfl (by simp) (by simp [hb])
    · simpa [Site.failure] using raise_ending h (e := e) (rest := rest)

/-! ## The whole access -/

theorem row_ending {f : CmdFields} (hlegal : f.legal = true) {s t : State} {site : Site} (h : StandsAt f s site t) :
    Ending f s (sequencerRow t) := by
  cases site with
  | stage j => rw [sequencerRow_stage h.phase]; exact stage_ending h
  | select => rw [sequencerRow_select h.phase]; exact select_ending h
  | addr => rw [sequencerRow_addr h.phase]; exact addr_ending h
  | poll pend => rw [sequencerRow_poll h.phase]; exact poll_ending h
  | drain pend v words => rw [sequencerRow_drain h.phase]; exact drain_ending hlegal h

/-- An access that stands nowhere is over: the block is in IDLE, and its rows change nothing more. -/
theorem sequencerRow_ending {f : CmdFields} (hlegal : f.legal = true) {s t : State} (h : Ending f s t) :
    Ending f s (sequencerRow t) := by
  cases h with
  | stands site h => exact row_ending hlegal h
  | ok pend v words h => rw [sequencerRow_idle h.phase]; exact .ok pend v words h
  | transport site e h => rw [sequencerRow_idle h.phase]; exact .transport site e h
  | timeout pend h => rw [sequencerRow_idle h.phase]; exact .timeout pend h
  | reset site h => rw [sequencerRow_idle h.phase]; exact .reset site h

theorem accept_stands {f : CmdFields} {s : State} :
    StandsAt f s (if f.dir then .stage 0 else .select) (accept f s) where
  carries := ⟨by simp [accept, State.holds], by intro h; simp [accept, h], by simp [accept], by simp [accept]⟩
  wf := by cases h : f.dir <;> simp [Site.wf, h]
  counters := by cases h : f.dir <;> simp [Site.counters, accept]
  phase := by cases h : f.dir <;> simp [Site.phase, accept, h]
  trace := by cases h : f.dir <;> simp [Site.trace, accept, stagedSlots, h]
  cache := by cases h : f.dir <;> simp [Site.cache, accept]
  done := by simp [accept]
  status := by simp [accept]
  errInfo := by simp [accept]

/-- Everything a command that is accepted can come to, on any environment. -/
theorem access_endings {f : CmdFields} (hlegal : f.legal = true) {s : State} (h : s.cmdReady = true) :
    Ending f s (access f s) := by
  rw [access_ready h]
  exact runRows_induct (Ending f s) (fun _ => sequencerRow_ending hlegal) _ _ (.stands _ accept_stands)

/-- The same of an instruction: the fields of a command are legal. -/
theorem exec_endings {i : Instr} {f : CmdFields} (hi : i.fields? = some f) {s : State} (h : s.cmdReady = true) :
    ∃ t, exec i s = .next t ∧ Ending f s t := by
  refine ⟨access f s, exec_command hi s, access_endings ?_ h⟩
  cases i <;> simp [Instr.fields?] at hi <;> subst hi <;> rfl

end Sys2Proof.Machine
end

