-- ==== Sys2Proof/Tests/Slice0.lean ====
section
/-!
SUPPORT. Tests on fixed values. Expected results come from the spec: the vectors V-… of 95_test_vectors.md, or the bit tables of
30_encoding.md written out by hand. The last part gives, for each statement with hypotheses, a state that meets them.
-/

namespace Sys2Proof.Tests

open Sys2Proof.Machine

/-! ## Well-formedness refuses -/

theorem test_wf_zero_field_set : CmdFields.legal ⟨1, false, false, 0, 0, 0⟩ = false := by decide

theorem test_wf_byte_with_two_slots : CmdFields.legal ⟨0, true, true, 1, 0, 0⟩ = false := by decide

theorem test_wf_byte_with_one_slot : CmdFields.legal ⟨0, true, true, 0, 0xFF, 0xFF⟩ = true := by decide

/-- REG_DATA0 + 3 = 32 does not fit (R10). -/
theorem test_wf_slots_past_31 : BusNumbers.legal ⟨0, 1, 29⟩ = false := by decide

theorem test_wf_page_is_addr : BusNumbers.legal ⟨5, 5, 8⟩ = false := by decide

/-- REG_PAGE is slot 3. -/
theorem test_wf_page_is_slot : BusNumbers.legal ⟨11, 5, 8⟩ = false := by decide

/-- REG_ADDR is slot 0. -/
theorem test_wf_addr_is_slot : BusNumbers.legal ⟨5, 8, 8⟩ = false := by decide

/-- The instance named in R10 (G1), and the highest place for the slots. -/
theorem test_wf_numbers_of_r10 : BusNumbers.legal ⟨0x10, 0x11, 0x18⟩ = true ∧ BusNumbers.legal ⟨27, 26, 28⟩ = true := by
  decide

/-! ## Decoding: words written out bit by bit -/

/-- R101 field by field: ZERO, DIR = 0, BYTE = 1, NSLOT = 00, PAGE = 0xAB, REG = 0xCD (V-E14). -/
theorem test_decode_read8 : decodeCommand 0b000000000000_0_1_00_10101011_11001101#32 = .ok (.read8 0xAB 0xCD) := rfl

/-- V-E11: the all-zero word is read16(0, 0); V-E12. -/
theorem test_decode_read16 : decodeCommand 0b000000000000_0_0_00_00000000_00000000#32 = .ok (.read16 0x00 0x00) ∧
    decodeCommand 0x0000FFFF#32 = .ok (.read16 0xFF 0xFF) := ⟨rfl, rfl⟩

/-- V-E3. -/
theorem test_decode_read32 : decodeCommand 0b000000000000_0_0_01_00000010_00010000#32 = .ok (.read32 0x02 0x10) := rfl

/-- V-E4. -/
theorem test_decode_read48 : decodeCommand 0b000000000000_0_0_10_00000101_00100000#32 = .ok (.read48 0x05 0x20) := rfl

/-- V-E5. -/
theorem test_decode_read64 : decodeCommand 0b000000000000_0_0_11_00000000_01000000#32 = .ok (.read64 0x00 0x40) := rfl

/-- V-E6. -/
theorem test_decode_write8 : decodeCommand 0b000000000000_1_1_00_00000001_00000000#32 = .ok (.write8 0x01 0x00) := rfl

/-- V-E7. -/
theorem test_decode_write16 : decodeCommand 0b000000000000_1_0_00_00000001_00000000#32 = .ok (.write16 0x01 0x00) := rfl

/-- V-E8. -/
theorem test_decode_write32 : decodeCommand 0b000000000000_1_0_01_00000010_00010000#32 = .ok (.write32 0x02 0x10) := rfl

/-- V-E9. -/
theorem test_decode_write48 : decodeCommand 0b000000000000_1_0_10_00000101_00100000#32 = .ok (.write48 0x05 0x20) := rfl

/-- V-E10, V-E13. -/
theorem test_decode_write64 : decodeCommand 0b000000000000_1_0_11_00000000_01000000#32 = .ok (.write64 0x00 0x40) ∧
    decodeCommand 0x000BFFFF#32 = .ok (.write64 0xFF 0xFF) := ⟨rfl, rfl⟩

/-- V-E20 to V-E25: BYTE = 1 with NSLOT ≠ 0. -/
theorem test_decode_byte_with_slots :
    [0x00050000#32, 0x00060000#32, 0x00070000#32, 0x000D1234#32, 0x000E0000#32, 0x000F0000#32].map decodeCommand
      = List.replicate 6 (.error .byteWithSlots) := rfl

/-- V-E26 to V-E29: bits [31:20] not zero. -/
theorem test_decode_zero_field :
    [0x00100000#32, 0x00140100#32, 0x80000210#32, 0xFFFFFFFF#32].map decodeCommand
      = List.replicate 4 (.error .zeroField) := rfl

/-- R110 bit by bit, and V-B5, V-B6. -/
theorem test_decode_page_select : decodeBus .page 0b00000010_0000000_1#16 = .ok (.busPageSelect 0x02) ∧
    decodeBus .page 0x8001#16 = .ok (.busPageSelect 0x80) ∧ decodeBus .page 0xFF01#16 = .ok (.busPageSelect 0xFF) :=
  ⟨rfl, rfl, rfl⟩

/-- R111 bit by bit, and V-B9. -/
theorem test_decode_addr_read : decodeBus .addr 0b00010000_000000_1_0#16 = .ok (.busAddrRead 0x10) ∧
    decodeBus .addr 0x8002#16 = .ok (.busAddrRead 0x80) := ⟨rfl, rfl⟩

/-- R112 bit by bit, and V-B10: the pattern of a page-select word, told apart by its register. -/
theorem test_decode_addr_write : decodeBus .addr 0b00010000_000000_0_1#16 = .ok (.busAddrWrite 0x10) ∧
    decodeBus .addr 0xFF01#16 = .ok (.busAddrWrite 0xFF) := ⟨rfl, rfl⟩

/-- R113: both opcode bits, neither, a stray bit, the enable bit clear. -/
theorem test_decode_bus_refuses : decodeBus .addr 0x1003#16 = .error .notAddrOpcode ∧
    decodeBus .addr 0x1000#16 = .error .notAddrOpcode ∧ decodeBus .addr 0x1006#16 = .error .notAddrOpcode ∧
    decodeBus .page 0x0200#16 = .error .notPageSelect ∧ decodeBus (.data 0) 0x0201#16 = .error .slotData :=
  ⟨rfl, rfl, rfl, rfl, rfl⟩

/-- The rows as the table numbers them. -/
theorem test_decode_table_word : decodeTableWord 32 0x000A0520 = some (.write48 0x05 0x20) ∧
    decodeTableWord 16 0x1002 = some (.busAddrRead 0x10) ∧ decodeTableWord 16 0x0201 = some (.busPageSelect 0x02) ∧
    decodeTableWord 32 0x00050000 = none := by decide

/-! ## Poll answers, the codec, the codes -/

/-- V-B11, V-B15, V-B16, V-B19. -/
theorem test_poll_complete : [0x0000#16, 0x0004#16, 0x1000#16, 0xFFFC#16].all pollComplete = true := by decide

/-- V-B12 to V-B14, V-B17, V-B18, V-B20. -/
theorem test_poll_pending :
    [0x0001#16, 0x0002#16, 0x0003#16, 0x1002#16, 0x8001#16, 0xFFFF#16].any pollComplete = false := by decide

/-- V-B21. -/
theorem test_slot_words : [0#3, 1#3, 2#3, 3#3].map (slotWord 0x0123456789ABCDEF#64)
    = [0xCDEF#16, 0x89AB#16, 0x4567#16, 0x0123#16] := by decide

/-- V-X6. -/
theorem test_status_codes : [Status.ok, .transport, .timeout, .illegal].map Status.code = [0#2, 1#2, 2#2, 3#2] := by decide

/-! ## Whole commands -/

/-- An answer that returned ok. -/
def ok (v : BusWord) : EnvEvent := .rsp (.ok v)

/-- A transport error where its value does not matter; the tests of errors take any value. -/
def e1 : ErrT := .zero

def err : EnvEvent := .rsp (.err e1)

/-- An instance just reset, with the answers to come. -/
def fresh (env : List EnvEvent) : State := { State.reset with env := env }

/-- The same with page `p` cached, as one successful page select leaves it. -/
def cached (p : Page) (env : List EnvEvent) : State :=
  { State.reset with cache := ⟨true, p⟩, trace := [.w .page (pageSelectWord p)], env := env }

/-- A state with a value at `cmd_wdata`. -/
def withValue (v : Value) (s : State) : State := { s with port := { s.port with wdata := v } }

/-- A state with a command word at the port. -/
def withCommand (w : CmdWord) (s : State) : State := { s with port := { s.port with valid := true, cmd := w } }

/-- Does the outcome have this property, with a next state? -/
def gives (o : Host.Outcome State Fault Refusal) (p : State → Bool) : Bool :=
  match o with
  | .next t => p t
  | .fault _ => false
  | .refused _ => false

/-- The next state of an outcome. -/
def result (o : Host.Outcome State Fault Refusal) : State :=
  match o with
  | .next t => t
  | .fault _ => State.reset
  | .refused _ => State.reset

/-- Finished with this status, page cache and trace. -/
def finished (st : Status) (cache : PageCache) (trace : List BusEvent) (t : State) : Bool :=
  t.phase == .idle && t.done && t.status == st && t.cache == cache && t.trace == trace

/-- V-R8a. -/
theorem test_read8 : gives (exec (.read8 0x01 0x00) (fresh [ok 0, ok 0, ok 0x0000, ok 0x12A5])) (fun t =>
    finished .ok ⟨true, 0x01⟩ [.w .page 0x0101, .w .addr 0x0002, .r .addr 0x0000, .r (.data 0) 0x12A5] t
      && t.rdata == 0x00000000000000A5) = true := by decide

/-- V-R8b. -/
theorem test_read8_low_byte_zero : gives (exec (.read8 0x01 0x00) (cached 0x01 [ok 0, ok 0x0000, ok 0xFF00]))
    (fun t => t.status == .ok && t.rdata == 0) = true := by decide

/-- V-R16c: completion at the fifth poll. -/
theorem test_read16_fifth_poll : gives (exec (.read16 0x01 0x00)
    (fresh [ok 0, ok 0, ok 2, ok 2, ok 2, ok 2, ok 0, ok 0x0001])) (fun t =>
      finished .ok ⟨true, 0x01⟩ [.w .page 0x0101, .w .addr 0x0002, .r .addr 2, .r .addr 2, .r .addr 2, .r .addr 2,
        .r .addr 0, .r (.data 0) 0x0001] t && t.rdata == 1 && t.pollCnt == 4 && t.sleeps == 4) = true := by decide

/-- V-SQ5: an error at the fifth poll is no timeout. -/
theorem test_read16_error_at_fifth_poll (e : ErrT) :
    let t := result (exec (.read16 0x02 0x10)
      (cached 0x02 [ok 0, ok 0x1002, ok 0x1002, ok 0x1002, ok 0x1002, .rsp (.err e)]))
    t.status = .transport ∧ t.errInfo = e ∧ t.pollCnt = 4 ∧ t.trace.getLast? = some (.rErr .addr e) := by
  simp [result, exec, execRead16, access, State.cmdReady, State.rstAsserted, cached, State.reset, accept, acceptFields,
    State.latch, State.presentNext, runRows, Config.maxRows, State.waiting, sequencerRow, busWrite, ok, raise, State.finish,
    ErrorKind.status, ErrorKind.errInfo, busRead, selectRow, State.cacheHit, addrRow, addrWrite,
    pollRow, pollComplete, Config.pendingMask, Config.opRead, Config.opWrite, pollPending, Config.pollMax]

/-- V-R32a. -/
theorem test_read32 : gives (exec (.read32 0x02 0x10) (fresh [ok 0, ok 0, ok 0x1000, ok 0xBEEF, ok 0xDEAD])) (fun t =>
    finished .ok ⟨true, 0x02⟩ [.w .page 0x0201, .w .addr 0x1002, .r .addr 0x1000, .r (.data 0) 0xBEEF,
      .r (.data 1) 0xDEAD] t && t.rdata == 0x00000000DEADBEEF) = true := by decide

/-- V-R32d: the fifth pending poll. -/
theorem test_read32_timeout : gives (exec (.read32 0x02 0x10)
    (fresh [ok 0, ok 0, ok 0x1002, ok 0x1002, ok 0x1002, ok 0x1002, ok 0x1002, ok 0])) (fun t =>
      finished .timeout ⟨true, 0x02⟩ [.w .page 0x0201, .w .addr 0x1002, .r .addr 0x1002, .r .addr 0x1002, .r .addr 0x1002,
        .r .addr 0x1002, .r .addr 0x1002] t && t.pollCnt == 5 && t.env == [ok 0]) = true := by decide

/-- V-R48a. -/
theorem test_read48 : gives (exec (.read48 0x05 0x20) (cached 0x05 [ok 0, ok 0, ok 0x5566, ok 0x3344, ok 0x1122]))
    (fun t => t.status == .ok && t.rdata == 0x0000112233445566 && t.slotIdx == 3) = true := by decide

/-- V-R64c: no sign handling. -/
theorem test_read64 : gives (exec (.read64 0x00 0x40) (cached 0x00 [ok 0, ok 0x4000, ok 0, ok 0, ok 0, ok 0x8000]))
    (fun t => t.status == .ok && t.rdata == 0x8000000000000000) = true := by decide

/-- V-R64d: an error at the last slot. -/
theorem test_read64_error_at_last_slot (e : ErrT) :
    let t := result (exec (.read64 0x00 0x40)
      (cached 0x00 [ok 0, ok 0x4000, ok 0x1111, ok 0x2222, ok 0x3333, .rsp (.err e)]))
    t.status = .transport ∧ t.errInfo = e ∧ t.slotIdx = 3 ∧ t.trace.getLast? = some (.rErr (.data 3) e) := by
  simp [result, exec, execRead64, access, State.cmdReady, State.rstAsserted, cached, State.reset, accept, acceptFields,
    State.latch, State.presentNext, runRows, Config.maxRows, State.waiting, sequencerRow, busWrite, ok, raise, State.finish,
    ErrorKind.status, ErrorKind.errInfo, busRead, State.nslots, selectRow, State.cacheHit, addrRow, addrWrite,
    pollRow, pollComplete, Config.pendingMask, Config.opRead, Config.opWrite, pollDone, drainRow, drainSlot]

/-- V-W8b: bits [15:8] are sent as given. -/
theorem test_write8 : gives (exec (.write8 0x01 0x00) (withValue 0x1234 (fresh [ok 0, ok 0, ok 0, ok 0]))) (fun t =>
    finished .ok ⟨true, 0x01⟩ [.w (.data 0) 0x1234, .w .page 0x0101, .w .addr 0x0001, .r .addr 0] t) = true := by decide

/-- V-W16b: bits [63:16] are dropped. -/
theorem test_write16 : gives (exec (.write16 0x01 0x00) (withValue 0xABCD1234 (fresh [ok 0, ok 0, ok 0, ok 0]))) (fun t =>
    finished .ok ⟨true, 0x01⟩ [.w (.data 0) 0x1234, .w .page 0x0101, .w .addr 0x0001, .r .addr 0] t) = true := by decide

/-- V-W32b: a staging failure, no trigger. -/
theorem test_write32_staging_error (e : ErrT) :
    let t := result (exec (.write32 0x02 0x10) (withValue 0xDEADBEEF (fresh [ok 0, .rsp (.err e)])))
    t.status = .transport ∧ t.errInfo = e ∧ t.cache = ⟨false, 0xFF⟩ ∧ t.slotIdx = 1 ∧
      t.trace = [.w (.data 0) 0xBEEF, .wErr (.data 1) 0xDEAD e] := by
  simp [result, exec, execWrite32, access, State.cmdReady, State.rstAsserted, fresh, withValue, State.reset, accept, acceptFields,
    State.latch, State.presentNext, runRows, Config.maxRows, State.waiting, sequencerRow, busWrite, ok, raise, State.finish,
    ErrorKind.status, ErrorKind.errInfo, stageRow, State.nslots, slotWord]

/-- V-W32e: a failed address write keeps the page cache. -/
theorem test_write32_trigger_error (e : ErrT) :
    let t := result (exec (.write32 0x02 0x10) (withValue 0xDEADBEEF (fresh [ok 0, ok 0, ok 0, .rsp (.err e)])))
    t.status = .transport ∧ t.errInfo = e ∧ t.cache = ⟨true, 0x02⟩ ∧
      t.trace = [.w (.data 0) 0xBEEF, .w (.data 1) 0xDEAD, .w .page 0x0201, .wErr .addr 0x1001 e] := by
  simp [result, exec, execWrite32, access, State.cmdReady, State.rstAsserted, fresh, withValue, State.reset, accept, acceptFields,
    State.latch, State.presentNext, runRows, Config.maxRows, State.waiting, sequencerRow, busWrite, ok, raise, State.finish,
    ErrorKind.status, ErrorKind.errInfo, stageRow, State.nslots, slotWord, selectRow, State.cacheHit,
    pageSelectWrite, pageSelectWord, Config.pageEnable, addrRow, addrWrite, addrWord, opcodeOf, Config.opWrite]

/-- V-W48b: bits [63:48] are dropped, slot 3 is not written. -/
theorem test_write48 : gives (exec (.write48 0x05 0x20)
    (withValue 0xFFFF112233445566 (fresh [ok 0, ok 0, ok 0, ok 0, ok 0, ok 0]))) (fun t =>
      finished .ok ⟨true, 0x05⟩ [.w (.data 0) 0x5566, .w (.data 1) 0x3344, .w (.data 2) 0x1122, .w .page 0x0501,
        .w .addr 0x2001, .r .addr 0] t) = true := by decide

/-- V-SRC1, the source's own example: four slots in order, zero words included. -/
theorem test_write64 : gives (exec (.write64 0x00 0x40)
    (withValue 0x0000000000010002 (fresh [ok 0, ok 0, ok 0, ok 0, ok 0, ok 0, ok 0x4000]))) (fun t =>
      finished .ok ⟨true, 0x00⟩ [.w (.data 0) 0x0002, .w (.data 1) 0x0001, .w (.data 2) 0x0000, .w (.data 3) 0x0000,
        .w .page 0x0001, .w .addr 0x4001, .r .addr 0x4000] t) = true := by decide

/-- V-PS5: the sentinel with PAGE = 0xFF forces the select of page 0xFF; and its step is the bus word. -/
theorem test_bus_page_select : gives (exec (.busPageSelect 0xFF) (fresh [ok 0])) (fun t =>
    t.cache == ⟨true, 0xFF⟩ && t.trace == [.w .page 0xFF01] && t.phase == .addr) = true := by decide

/-- V-PS7. -/
theorem test_bus_page_select_error (e : ErrT) :
    let t := result (exec (.busPageSelect 0x03) { fresh [.rsp (.err e)] with cache := ⟨true, 0x02⟩ })
    t.status = .transport ∧ t.errInfo = e ∧ t.cache = ⟨true, 0x02⟩ ∧ t.trace = [.wErr .page 0x0301 e] :=
  ⟨rfl, rfl, rfl, rfl⟩

/-- V-B8 and R142. -/
theorem test_bus_addr_read : gives (exec (.busAddrRead 0x10) { fresh [ok 0] with pollCnt := 3 }) (fun t =>
    t.trace == [.w .addr 0x1002] && t.phase == .poll && t.pollCnt == 0) = true := by decide

/-- V-B10 and R142. -/
theorem test_bus_addr_write : gives (exec (.busAddrWrite 0xFF) (fresh [ok 0])) (fun t =>
    t.trace == [.w .addr 0xFF01] && t.phase == .poll) = true := by decide

/-! ## Steps -/

/-- V-X1: an illegal word at the port. -/
theorem test_step_illegal : gives (step (withCommand 0x00050000 { fresh [ok 0] with cache := ⟨true, 0x02⟩ })) (fun t =>
    finished .illegal ⟨true, 0x02⟩ [] t && t.env == [ok 0] && t.lByte && t.lNslot == 1) = true := by decide

/-- R224: an illegal word keeps SLOT_IDX, POLL_CNT and L_WDATA. -/
theorem test_step_illegal_keeps : gives (step (withValue 7 (withCommand 0x00100000
    { fresh [] with slotIdx := 2, pollCnt := 1, lWdata := 5 }))) (fun t =>
      t.status == .illegal && t.slotIdx == 2 && t.pollCnt == 1 && t.lWdata == 5) = true := by decide

/-- R266: with a second line to come the run has not ended at the finish of the first command, with none it has. -/
theorem test_run_ended :
    gives (step { withCommand 0x00100000 (fresh []) with program := [⟨0, 0⟩] }) (fun t => t.finished && !t.ended) = true ∧
    gives (step (withCommand 0x00100000 (fresh []))) (fun t => t.ended) = true := by decide

/-- V-SS1 step 0: accepted, nothing answered yet. -/
theorem test_step_accept : gives (step (withValue 0xDEADBEEF (withCommand 0x00090210 (fresh [])))) (fun t =>
    t.phase == .stage && t.slotIdx == 0 && t.pollCnt == 0 && t.cache == ⟨false, 0xFF⟩ && !t.done && t.status == .ok
      && t.lWdata == 0xDEADBEEF && t.lPage == 0x02 && t.lReg == 0x10 && t.lDir && t.lNslot == 1) = true := by decide

/-- V-SS1 step 5: a pending poll in flight, one pause. -/
theorem test_step_pending_poll : gives (step { cached 0x02 [ok 0x1001, ok 0x1000] with
    phase := .poll, lDir := true, lNslot := 1, lPage := 0x02, lReg := 0x10, slotIdx := 2 }) (fun t =>
      t.phase == .poll && t.pollCnt == 1 && t.sleeps == 1 && t.slotIdx == 2 && !t.done && t.env == [ok 0x1000]) = true := by
  decide

/-- V-SS2 step 4: the drain of an 8-bit read. -/
theorem test_step_drain_byte : gives (step { cached 0x01 [ok 0x12A5] with phase := .drain, lByte := true, lPage := 0x01 })
    (fun t => t.phase == .idle && t.done && t.slotIdx == 1 && t.rdata == 0x00000000000000A5) = true := by decide

/-- V-RS3: `rst` in POLL abandons the access. -/
theorem test_step_reset_in_flight : gives (step { cached 0x02 [.rst, ok 0] with phase := .poll, pollCnt := 1, lPage := 0x02 })
    (fun t => t.phase == .idle && !t.done && t.cache == ⟨false, 0xFF⟩ && t.pollCnt == 0 && t.env == [ok 0]
      && t.status == .ok) = true := by decide

/-- V-X4: a command held on the port waits while an access is in flight. -/
theorem test_step_port_waits : gives (step (withCommand 0x00000100 { cached 0x02 [] with phase := .poll, lPage := 0x02 }))
    (fun t => t.phase == .poll && t.port.valid && t.lReg == 0) = true := by decide

/-- A placed command word is what the next step runs. -/
theorem test_with_fetch_word : (State.reset.withFetchWord 32 0x00010210).nextEvent = .command (.read32 0x02 0x10) ∧
    (State.reset.withFetchWord 16 0x1002).nextEvent = .busWord (.busAddrRead 0x10) ∧
    (State.reset.withFetchWord 16 0xFF01).nextEvent = .busWord (.busPageSelect 0xFF) := by decide

/-! ## RefDevice (95_test_vectors.md section 2) -/

/-- RefDevice of program P2, with an 8-bit register in 0x01 and everything 0. -/
def refDevice : RefDevice where
  page := 0x33
  addr := 0
  slots := fun _ => 0
  regs := fun _ _ => 0xA5
  width := fun _ _ => .w8
  pend := some 0
  busy := false
  lat := some 1
  junk := 0x5A
  fails := [7]
  err := e1
  count := 0

/-- P2 command 3: the junk byte of an 8-bit read. -/
theorem test_ref_device_read8 : ({ refDevice with addr := 0x0002, busy := true }.answer (.read .addr)).1 = .ok 0x0000 ∧
    ({ refDevice with addr := 0x0002, busy := true }.answer (.read .addr)).2.slots 0 = 0x5AA5 := by decide

/-- P1: with lat = 1 the first poll after the trigger reads the address word back. -/
theorem test_ref_device_pending :
    ((refDevice.answer (.write .addr 0x1001)).2.answer (.read .addr)).1 = .ok 0x1001 := by decide

theorem test_ref_device_fails : ({ refDevice with count := 7 }.answer (.read .addr)).1 = .err e1 := by decide

/-! ## Witnesses: each statement with hypotheses has states that meet them -/

theorem test_witness_SixBusNumbersDistinct : BusNumbers.legal ⟨27, 26, 28⟩ = true ∧ ((3#3).toNat < 4) := by decide

/-- Both clauses of IllegalWordFinishesAtOnce at their boundary bits, with a state that presents the word. -/
theorem test_witness_IllegalWordFinishesAtOnce :
    (0x00100000#32).extractLsb' 20 12 ≠ 0#12 ∧
    ((0x00050000#32).getLsbD 18 = true ∧ (0x00050000#32).extractLsb' 16 2 ≠ 0#2) ∧
    (withCommand 0x00050000 (fresh [])).cmdReady = true ∧ (withCommand 0x00050000 (fresh [])).port.valid = true := by
  decide

theorem test_witness_StepRunsPresentedCommand : (withCommand 0x000B0040 (fresh [])).cmdReady = true ∧
    (withCommand 0x000B0040 (fresh [])).port.valid = true ∧
    decode (.cmd32 (withCommand 0x000B0040 (fresh [])).port.cmd) = .ok (.write64 0x00 0x40) := ⟨rfl, rfl, rfl⟩

/-- SELECT on a miss, ADDR of a read, ADDR of a write. -/
theorem test_witness_StepRunsSequencerBusWord :
    { fresh [] with phase := .select }.rstAsserted = false ∧
    { fresh [] with phase := .select }.cache ≠ ⟨true, { fresh [] with phase := .select }.lPage⟩ ∧
    { fresh [] with phase := .addr }.lDir = false ∧ { fresh [] with phase := .addr, lDir := true }.lDir = true := by decide

/-- Not ready in flight, and not ready under `rst`. -/
theorem test_witness_CommandWaitsWhileNotReady : (Instr.read8 0 0).isCommand = true ∧
    { fresh [] with phase := .poll }.cmdReady = false ∧ (fresh [.rst]).cmdReady = false := by decide

/-- A write, a read that misses and a read that hits. -/
theorem test_witness_AcceptLatchesTheCommand :
    (Instr.write8 1 2).fields? = some ⟨0, true, true, 0, 1, 2⟩ ∧ (Instr.read64 1 2).fields? = some ⟨0, false, false, 3, 1, 2⟩ ∧
    (fresh []).phase = .idle ∧ (fresh []).env = [] ∧ (fresh []).cache ≠ ⟨true, 1⟩ ∧ (cached 1 []).phase = .idle ∧
    (cached 1 []).env = [] ∧ (cached 1 []).cache = ⟨true, 1⟩ := by decide

/-- A hit on page 0xFF, and the sentinel whose PAGE field holds the page asked for. -/
theorem test_witness_PageSelectHitIssuesNothing :
    { cached 0xFF [] with phase := .select, lPage := 0xFF }.rstAsserted = false ∧
    { cached 0xFF [] with phase := .select, lPage := 0xFF }.cache = ⟨true, 0xFF⟩ ∧
    { fresh [] with phase := .select, lPage := 0xFF }.rstAsserted = false ∧
    { fresh [] with phase := .select, lPage := 0xFF }.cache = ⟨false, 0xFF⟩ := by decide

/-- PageSelectWriteSetsCache, AddrReadWordStartsPolling, AddrWriteWordStartsPolling. -/
theorem test_witness_bus_word_ok : (fresh [ok 7]).env = .rsp (.ok 7) :: [] := by decide

/-- PageSelectFailureKeepsCache, AddrWordFailureEndsAccess (both opcodes). -/
theorem test_witness_bus_word_error : (fresh [err]).env = .rsp (.err e1) :: [] ∧
    (Instr.busAddrRead 3 = .busAddrRead 3 ∧ Config.opRead = 0x0002) ∧
    (Instr.busAddrWrite 3 = .busAddrWrite 3 ∧ Config.opWrite = 0x0001) := by decide

/-- OnlySelectAndResetWriteCache, OnlyTabledWordsAreWritten and every other statement about a step: a step has a next state. -/
theorem test_witness_step_next : gives (step (withCommand 0x00000000 (fresh [ok 0, .rst]))) (fun _ => true) = true := by
  decide

/-- SentinelForcesPageSelect at page 0xFF; the statements about every accepted command need its first two parts. -/
theorem test_witness_accepted_command : (Instr.read16 0xFF 0).fields? = some ⟨0, false, false, 0, 0xFF, 0⟩ ∧
    (fresh [ok 0]).cmdReady = true ∧ (fresh [ok 0]).cache.valid = false := by decide

/-- The three cases of PageSelectElided: same page, two pages, page already cached. -/
def elidedEnv : List EnvEvent := [ok 0, ok 0, ok 0, ok 0]

/-- A read16 from a state, as a state. -/
def afterRead16 (p : Page) (s : State) : State := access ⟨0, false, false, 0, p, 0⟩ s

theorem test_witness_PageSelectElided_same :
    let s := fresh (elidedEnv ++ [ok 0, ok 0, ok 0])
    let t := afterRead16 2 s
    let u := afterRead16 2 t
    exec (.read16 2 0) s = .next t ∧ exec (.read16 2 0) t = .next u ∧ s.cmdReady = true ∧ t.cmdReady = true ∧
      t.finished = true ∧ t.status = .ok ∧ u.finished = true ∧ u.status = .ok ∧ s.cache ≠ ⟨true, 2⟩ ∧
      u.trace = s.trace ++ u.trace := by
  refine ⟨rfl, rfl, ?_⟩
  decide

theorem test_witness_PageSelectElided_other :
    let s := cached 9 (elidedEnv ++ elidedEnv)
    let t := afterRead16 2 s
    let u := afterRead16 3 t
    exec (.read16 2 0) s = .next t ∧ exec (.read16 3 0) t = .next u ∧ s.cmdReady = true ∧ t.cmdReady = true ∧
      t.finished = true ∧ t.status = .ok ∧ u.finished = true ∧ u.status = .ok ∧ s.cache ≠ ⟨true, 2⟩ ∧ s.cache ≠ ⟨true, 3⟩ ∧
      u.trace = s.trace ++ u.trace.drop 1 := by
  refine ⟨rfl, rfl, ?_⟩
  decide

theorem test_witness_PageSelectElided_held :
    let s := cached 2 [ok 0, ok 0, ok 0, ok 0, ok 0, ok 0]
    let t := afterRead16 2 s
    let u := afterRead16 2 t
    exec (.read16 2 0) s = .next t ∧ exec (.read16 2 0) t = .next u ∧ s.cmdReady = true ∧ t.cmdReady = true ∧
      t.finished = true ∧ t.status = .ok ∧ u.finished = true ∧ u.status = .ok ∧ s.cache = ⟨true, 2⟩ ∧
      u.trace = s.trace ++ u.trace.drop 1 := by
  refine ⟨rfl, rfl, ?_⟩
  decide

/-- PollAnswerDecides: the last poll (POLL_CNT = 4), pending and complete, of a read and of a write. -/
theorem test_witness_PollAnswerDecides :
    { fresh [ok 3] with phase := .poll, pollCnt := 4 }.pollCnt.toNat < 5 ∧
    { fresh [ok 3] with phase := .poll, pollCnt := 4 }.env = .rsp (.ok 3) :: [] ∧
    ((0xFFFC#16).getLsbD 1 = false ∧ (0xFFFC#16).getLsbD 0 = false) ∧
    { fresh [ok 0xFFFC] with phase := .poll, pollCnt := 4, lDir := true }.env = .rsp (.ok 0xFFFC) :: [] := by decide

theorem test_witness_PollErrorEndsAccess : { fresh [err] with phase := .poll, pollCnt := 4 }.phase = .poll ∧
    { fresh [err] with phase := .poll, pollCnt := 4 }.env = .rsp (.err e1) :: [] := by decide

/-- FivePendingPollsTimeOut for a write64 on a miss and a read8 on a hit. -/
theorem test_witness_FivePendingPollsTimeOut :
    (fresh (oks [1, 2, 3, 4] ++ (fresh []).selectAnswer 2 0 ++ oks (0 :: List.replicate 5 2) ++ [ok 9])).cmdReady = true ∧
    (fresh []).selectAnswer 2 0 = [ok 0] ∧ (cached 2 []).selectAnswer 2 0 = [] ∧
    (Instr.write64 2 0).fields? = some ⟨0, true, false, 3, 2, 0⟩ ∧ (Instr.read8 2 0).fields? = some ⟨0, false, true, 0, 2, 0⟩ ∧
    (∀ w ∈ List.replicate 5 (2#16), pollComplete w = false) := by
  refine ⟨by decide, by decide, by decide, by decide, by decide, fun w hw => ?_⟩
  rw [List.eq_of_mem_replicate hw]
  rfl

/-- The poll answers of the result statements: four pending polls and the completing fifth; none pending. -/
theorem test_witness_CompletesAfter : CompletesAfter [1, 2, 3, 0x1002] 0x1000 ∧ CompletesAfter [] 0 := by
  refine ⟨⟨by decide, ?_, rfl⟩, by decide, by simp, rfl⟩
  simp only [List.forall_mem_cons]
  exact ⟨rfl, rfl, rfl, rfl, by simp⟩

/-- Read8Result to Read64Result: the environment of a read of up to four slots, on a miss and on a hit. -/
theorem test_witness_read_results :
    (fresh [ok 5, ok 6, ok 1, ok 0, ok 0xAA, ok 0xBB, ok 0xCC, ok 0xDD]).env
      = (fresh []).runOpAnswers 2 5 6 [1] 0 ++ oks [0xAA, 0xBB, 0xCC, 0xDD] ++ [] ∧
    (cached 2 [ok 6, ok 0, ok 0xAA]).env = (cached 2 []).runOpAnswers 2 5 6 [] 0 ++ oks [0xAA] ++ [] := by decide

/-- Write8Result to Write64Result. -/
theorem test_witness_write_results :
    (fresh [ok 1, ok 2, ok 3, ok 4, ok 5, ok 6, ok 1, ok 0]).env
      = oks [1, 2, 3, 4] ++ (fresh []).runOpAnswers 2 5 6 [1] 0 ++ [] ∧
    (cached 2 [ok 1, ok 6, ok 0]).env = oks [1] ++ (cached 2 []).runOpAnswers 2 5 6 [] 0 ++ [] := by decide

/-- StagingFailureAbortsBeforeTrigger at the first and at the last slot. -/
theorem test_witness_StagingFailure : (Instr.write64 0 0).fields? = some ⟨0, true, false, 3, 0, 0⟩ ∧
    (fresh [err]).env = oks [] ++ .rsp (.err e1) :: [] ∧ ([] : List BusWord).length ≤ (3#2).toNat ∧
    (fresh [ok 1, ok 2, ok 3, err]).env = oks [1, 2, 3] ++ .rsp (.err e1) :: [] ∧
    ([1, 2, 3] : List BusWord).length ≤ (3#2).toNat := by decide

/-- DrainFailureEndsRead at the first and at the last slot. -/
theorem test_witness_DrainFailure : (Instr.read64 2 0).fields? = some ⟨0, false, false, 3, 2, 0⟩ ∧
    (cached 2 [ok 6, ok 0, err]).env = (cached 2 []).runOpAnswers 2 5 6 [] 0 ++ oks [] ++ .rsp (.err e1) :: [] ∧
    (cached 2 [ok 6, ok 0, ok 1, ok 2, ok 3, err]).env
      = (cached 2 []).runOpAnswers 2 5 6 [] 0 ++ oks [1, 2, 3] ++ .rsp (.err e1) :: [] ∧
    ([1, 2, 3] : List BusWord).length ≤ (3#2).toNat := by decide

/-- Every outcome of TransactionCountsAsTabled, TimeoutMeansFivePendingPolls, SuccessMeansEverythingAnswered and
TransportErrorIsTheLastTransaction occurs (V-SQ22 to V-SQ27). -/
theorem test_witness_outcomes :
    gives (exec (.read64 2 0) (fresh (List.replicate 6 (ok 2) ++ List.replicate 5 (ok 0)))) (fun t =>
      t.finished && t.status == .ok && t.trace.length == 11) = true ∧
    gives (exec (.write64 2 0) (fresh (List.replicate 11 (ok 1)))) (fun t =>
      t.finished && t.status == .timeout && t.trace.length == 11) = true ∧
    gives (exec (.read16 2 0) (fresh [err])) (fun t => t.finished && t.status == .transport && t.trace.length == 1) = true ∧
    gives (exec (.write32 2 0) (fresh [err])) (fun t => t.finished && t.status == .transport && t.trace.length == 1) = true := by
  decide

theorem test_witness_AnsweredAccessFinishes : (List.replicate 11 (BusRsp.ok 1)).length = 11 ∧
    (fresh (answered (List.replicate 11 (.ok 1)) ++ [.rst])).phase = .idle := by decide

/-- CacheKeptThroughLaterFailure: the select succeeded and the trigger failed; the select failed. -/
theorem test_witness_CacheKept :
    gives (exec (.read16 2 0) (fresh [ok 0, err])) (fun t => t.trace == [.w .page 0x0201, .wErr .addr 0x0002 e1]) = true ∧
    gives (exec (.read16 2 0) (fresh [err])) (fun t => t.trace == [.wErr .page 0x0201 e1]) = true := by decide

/-- StepMakesTheRequestedTransaction: a phase with a transaction, and the hit row without one. -/
theorem test_witness_StepMakesTheRequestedTransaction :
    { cached 2 [ok 0] with phase := .drain, lByte := true, lPage := 2 }.transaction? = some (.read (.data 0)) ∧
    { cached 2 [ok 0] with phase := .select, lPage := 2 }.transaction? = none := by decide

/-- A state of a read32 that drains its last slot. -/
def draining : State :=
  { cached 2 [ok 0xDEAD] with
    phase := .drain, lNslot := 1, lPage := 2, lReg := 0x10, slotIdx := 1, pollCnt := 1, acc := 0xBEEF }

/-- The invariant holds in a state with an access in flight (EveryStepKeepsInvariant, OnlyMappedRegistersAreRequested). -/
theorem test_witness_invariant : draining.Inv where
  done_idle := by decide
  slot_range := by decide
  poll_range := by decide
  poll_below := by decide
  stage_write := by decide
  drain_read := by decide
  byte_one := by decide
  selected := by decide
  acc_low := by decide
  rdata_low := by decide
  cache_trace := by decide

/-- Its request is on the wires of R10's example numbers: slot 1 is register 0x19 of device 0x1E. -/
theorem test_witness_OnlyMappedRegistersAreRequested :
    draining.busRequest? ⟨0x10, 0x11, 0x18⟩ = some ⟨false, 0x1E, 0x19, 0⟩ ∧
    { draining with env := [.rst] }.rstAsserted = true := by decide

/-- CacheMirrorsConfirmedSelects: a cached page and the sentinel after a reset. -/
theorem test_witness_CacheMirrors : (cached 7 []).cache.view = selectedIn (cached 7 []).trace ∧
    { fresh [] with trace := [.w .page 0x0701, .rst] }.cache.view = selectedIn [.w .page 0x0701, .rst] := by decide

theorem test_witness_ResetTakesEffectInAnyPhase : { cached 7 [.rst] with phase := .drain }.env = .rst :: [] := by decide

/-- ResetAbandonsAccess: `rst` meets a write8 after one answer; a write8 that failed on the first of two answers leaves `rst`. -/
theorem test_witness_ResetAbandonsAccess : (fresh [ok 0, .rst]).env = answered [.ok 0] ++ .rst :: [] ∧
    ([.ok 0] : List BusRsp) ≠ [] ∧
    gives (exec (.write8 0 0) (fresh [ok 0, .rst])) (fun t => !t.finished && t.trace == [.w (.data 0) 0, .rst]) = true ∧
    (fresh [err, ok 0, .rst]).env = answered [.err e1, .ok 0] ++ .rst :: [] ∧
    gives (exec (.write8 0 0) (fresh [err, ok 0, .rst])) (fun t => t.finished && t.env == [ok 0, .rst]) = true := by decide

theorem test_witness_BlockWaits : { fresh [] with phase := .addr }.transaction? ≠ none ∧
    { fresh [.silent] with phase := .stage }.rstAsserted = false ∧
    { fresh [.silent] with phase := .stage }.transaction? ≠ none ∧ (fresh [.silent]).port.valid = false := by decide

theorem test_witness_HostInputs : { fresh [] with phase := .select }.phase ≠ .idle := by decide

/-- UnusedValueBitsAreIgnored: values of a write16 that differ from bit 16 on. -/
theorem test_witness_UnusedValueBits : (Instr.write16 0 0).fields? = some ⟨0, true, false, 0, 0, 0⟩ ∧
    (withValue 0x12345 (fresh [])).cmdReady = true ∧
    ∀ k, k < 16 * ((0#2).toNat + 1) → (0xFFFF2345#64).getLsbD k = (withValue 0x12345 (fresh [])).port.wdata.getLsbD k := by
  decide

/-- ByteAccessIsWordAccessMasked: read16 succeeds where read8 does. -/
theorem test_witness_ByteAccess : gives (exec (.read16 1 0) (cached 1 [ok 0, ok 0, ok 0x12A5])) (fun u =>
    u.finished && u.status == .ok) = true := by decide

theorem test_witness_pseudocode : (fresh (answered [.ok 0, .err e1])).phase = .idle ∧
    (World.readN .w16 1 0 ⟨⟨true, 1⟩, [.ok 0, .ok 0, .ok 7], []⟩).1 = .ok 7 ∧
    (World.writeN .w16 1 0 7 ⟨⟨true, 1⟩, [.ok 0, .err e1], []⟩).1 = .transport e1 := by decide

theorem test_witness_StepByStep : decode (.cmd32 (withCommand 0x00000100 (fresh [.silent, ok 0])).port.cmd)
    = .ok (.read16 0x01 0x00) ∧ (withCommand 0x00000100 (fresh [.silent, ok 0])).program = [] ∧
    .rst ∉ (withCommand 0x00000100 (fresh [.silent, ok 0])).env := ⟨rfl, rfl, by decide⟩

/-- InstancesAreIndependent: two instances, and two lists that agree at one. -/
theorem test_witness_instances : [fresh [], cached 1 []][1]? = [cached 2 [], cached 1 []][1]? ∧ (0 : Nat) ≠ 1 := ⟨rfl, by decide⟩

/-- RefDeviceKeepsTheContract: an idle RefDevice and a busy one, and the block's own address word. -/
theorem test_witness_RefDevice : (refDevice.busy = false ∧ pollComplete refDevice.addr = true) ∧
    (∃ reg dir, (0x0002 : BusWord) = addrWord reg (opcodeOf dir)) ∧
    ∃ reg dir, (0x1001 : BusWord) = addrWord reg (opcodeOf dir) :=
  ⟨by decide, ⟨0, false, by decide⟩, ⟨0x10, true, by decide⟩⟩

/-! ### WriteThenReadReturnsTheValue: write16(1, 0, 0x12A5), then read16(1, 0), on a device that keeps the contract -/

def device0 : Device := ⟨9, none, fun _ => 0, fun _ _ => 0⟩
def device1 : Device := { device0 with slots := fun j => if j = 0 then 0x12A5 else 0 }
def device2 : Device := { device1 with page := 1 }
def device3 : Device := { device2 with op := some ⟨true, 1, 0⟩ }
def device4 : Device := { device2 with regs := fun p r => if p = 1 ∧ r = 0 then 0x12A5 else 0 }
def device5 : Device := { device4 with op := some ⟨false, 1, 0⟩ }

def roundStart : State := withValue 0x12A5 (fresh [ok 0, ok 0, ok 0, ok 0, ok 0, ok 0, ok 0x12A5])
def roundWritten : State := access ⟨0, true, false, 0, 1, 0⟩ roundStart
def roundRead : State := access ⟨0, false, false, 0, 1, 0⟩ roundWritten

theorem test_witness_round_trip_runs :
    exec (Width.w16.write 1 0) roundStart = .next roundWritten ∧ exec (Width.w16.read 1 0) roundWritten = .next roundRead ∧
    roundStart.cmdReady = true ∧ roundWritten.finished = true ∧ roundWritten.status = .ok ∧ roundWritten.cmdReady = true ∧
    roundRead.finished = true ∧ roundRead.status = .ok ∧
    roundWritten.trace = roundStart.trace ++ [.w (.data 0) 0x12A5, .w .page 0x0101, .w .addr 0x0001, .r .addr 0] ∧
    roundRead.trace = roundWritten.trace ++ [.w .addr 0x0002, .r .addr 0, .r (.data 0) 0x12A5] := by
  refine ⟨rfl, rfl, ?_⟩
  decide

theorem addr_words (dir : Bool) (reg : LReg) :
    (0x0001 = addrWord reg (opcodeOf dir) → dir = true ∧ reg = 0) ∧
      (0x0002 = addrWord reg (opcodeOf dir) → dir = false ∧ reg = 0) := by
  obtain ⟨hr, ho⟩ := addrWord_fields reg dir
  constructor <;> intro e <;> rw [← e] at hr ho <;> refine ⟨?_, hr.symm⟩ <;> cases dir <;> first | rfl | exact absurd ho (by decide)

theorem test_witness_round_trip_device : device0.op = none ∧
    Device.Follows (fun _ _ => .w16) device0 [.w (.data 0) 0x12A5, .w .page 0x0101, .w .addr 0x0001, .r .addr 0] device4 ∧
    Device.Follows (fun _ _ => .w16) device4 [.w .addr 0x0002, .r .addr 0, .r (.data 0) 0x12A5] device4 := by
  refine ⟨rfl, ⟨device1, rfl, device2, ?_, device3, ⟨rfl, ?_⟩, device4, ⟨rfl, rfl, rfl⟩, rfl⟩,
    ⟨device5, ⟨rfl, ?_⟩, device4, ⟨rfl, rfl, rfl⟩, device4, ⟨rfl, fun _ => rfl⟩, rfl⟩⟩
  · intro p h
    have : p = 1 := by
      have := (pageSelectWord_fields p).1
      rw [← h] at this
      exact this.symm
    rw [this]
    rfl
  · intro _ dir reg h
    obtain ⟨rfl, rfl⟩ := (addr_words dir reg).1 h
    rfl
  · intro _ dir reg h
    obtain ⟨rfl, rfl⟩ := (addr_words dir reg).2 h
    rfl

end Sys2Proof.Tests
end

section
/-!
The bus register numbers under R10's constraints: the slots fill the block REG_DATA0 .. REG_DATA0 + 3, PAGE and ADDR lie
outside it, so a role is known by its number (O6).
-/
namespace Sys2Proof

/-- R10's constraints as propositions: the block of slot numbers fits in 5 bits, and PAGE and ADDR differ and lie outside
it. -/
theorem BusNumbers.legal_iff (c : BusNumbers) :
    c.legal = true ↔
      c.regData0.toNat + 3 ≤ 31 ∧ c.regPage ≠ c.regAddr ∧
        (c.regPage.toNat < c.regData0.toNat ∨ c.regData0.toNat + 3 < c.regPage.toNat) ∧
        (c.regAddr.toNat < c.regData0.toNat ∨ c.regData0.toNat + 3 < c.regAddr.toNat) := by
  simp only [BusNumbers.legal, Bool.and_eq_true, Bool.not_eq_true', Bool.and_eq_false_iff, decide_eq_true_eq,
    decide_eq_false_iff_not, bne_iff_ne, Nat.not_le, and_assoc]

namespace BusReg

@[simp] theorem number_page (c : BusNumbers) : BusReg.page.number c = c.regPage := rfl
@[simp] theorem number_addr (c : BusNumbers) : BusReg.addr.number c = c.regAddr := rfl

variable {c : BusNumbers} {i j : BitVec 3}

/-- R10: REG_DATA(i) = REG_DATA0 + i does not wrap when the whole block fits. -/
theorem toNat_number_data (hfit : c.regData0.toNat + 3 ≤ 31) (hi : i.toNat < 4) :
    ((BusReg.data i).number c).toNat = c.regData0.toNat + i.toNat := by
  have hwiden : (i.setWidth 5).toNat = i.toNat := BitVec.toNat_setWidth_of_le (by decide)
  calc ((BusReg.data i).number c).toNat
      = (c.regData0.toNat + (i.setWidth 5).toNat) % 2 ^ 5 := BitVec.toNat_add _ _
    _ = (c.regData0.toNat + i.toNat) % 2 ^ 5 := by rw [hwiden]
    _ = c.regData0.toNat + i.toNat := Nat.mod_eq_of_lt (by omega)

theorem number_data_ne_of_outside_block {n : BitVec 5} (hfit : c.regData0.toNat + 3 ≤ 31) (hi : i.toNat < 4)
    (hout : n.toNat < c.regData0.toNat ∨ c.regData0.toNat + 3 < n.toNat) : (BusReg.data i).number c ≠ n := by
  intro heq
  have hnat := toNat_number_data hfit hi
  rw [heq] at hnat
  omega

theorem number_data_inj (hfit : c.regData0.toNat + 3 ≤ 31) (hi : i.toNat < 4) (hj : j.toNat < 4)
    (heq : (BusReg.data i).number c = (BusReg.data j).number c) : i = j := by
  have hnat := congrArg BitVec.toNat heq
  rw [toNat_number_data hfit hi, toNat_number_data hfit hj] at hnat
  exact BitVec.eq_of_toNat_eq (Nat.add_left_cancel hnat)

/-- R63: the six roles the block uses have six numbers. -/
theorem number_inj_of_legal (hlegal : c.legal = true) {q r : BusReg} (hq : ∀ i, q = .data i → i.toNat < 4)
    (hr : ∀ i, r = .data i → i.toNat < 4) (heq : q.number c = r.number c) : q = r := by
  obtain ⟨hfit, hne, hpage, haddr⟩ := c.legal_iff.1 hlegal
  match q, r with
  | .page, .page | .addr, .addr => rfl
  | .page, .addr => exact absurd heq hne
  | .addr, .page => exact absurd heq.symm hne
  | .data i, .page => exact absurd heq (number_data_ne_of_outside_block hfit (hq i rfl) hpage)
  | .data i, .addr => exact absurd heq (number_data_ne_of_outside_block hfit (hq i rfl) haddr)
  | .page, .data j => exact absurd heq.symm (number_data_ne_of_outside_block hfit (hr j rfl) hpage)
  | .addr, .data j => exact absurd heq.symm (number_data_ne_of_outside_block hfit (hr j rfl) haddr)
  | .data i, .data j => rw [number_data_inj hfit (hq i rfl) (hr j rfl) heq]

end BusReg

/-- Settles O6: the slots fill their block without wrap, and PAGE and ADDR lie outside it (R10, R63). -/
theorem sixBusNumbersDistinct : Obligations.SixBusNumbersDistinct := by
  intro c hlegal
  obtain ⟨hfit, -⟩ := c.legal_iff.1 hlegal
  exact ⟨fun _ => BusReg.toNat_number_data hfit, fun _ _ => BusReg.number_inj_of_legal hlegal⟩

end Sys2Proof
end

section
/-!
What a row of R150 does while its transaction has no answer (R46), what a command does when it is not accepted (R40) or has
only just been (R41), and what a step does while nothing is presented (O9, O10, O51).
-/
namespace Sys2Proof.Machine

variable {s : State}

/-! ## Rows without an answer (R46) -/

theorem cacheHit_eq_false_of_pending (hp : s.phase = .select) (ht : s.pendingTransaction ≠ none) :
    s.cacheHit s.lPage = false := by
  by_contra hc
  exact ht (by simp [State.pendingTransaction, hp, hc])

/-- A row that asks for a transaction is that bus write or bus read, with what its answer does. -/
theorem sequencerRow_of_pending (ht : s.pendingTransaction ≠ none) :
    (∃ r v k, s.pendingTransaction = some (.write r v) ∧ sequencerRow s = busWrite r v k s) ∨
      (∃ r k, s.pendingTransaction = some (.read r) ∧ sequencerRow s = busRead r k s) := by
  cases hp : s.phase with
  | idle => exact absurd (by simp [State.pendingTransaction, hp]) ht
  | stage => exact .inl ⟨_, _, _, by simp [State.pendingTransaction, hp], sequencerRow_stage hp⟩
  | select =>
    have hmiss := cacheHit_eq_false_of_pending hp ht
    exact .inl ⟨_, _, _, by simp [State.pendingTransaction, hp, hmiss],
      (sequencerRow_select hp).trans (selectRow_miss hmiss)⟩
  | addr =>
    exact .inl ⟨_, _, fun t => { t with pollCnt := 0, phase := .poll }, by simp [State.pendingTransaction, hp],
      sequencerRow_addr hp⟩
  | poll => exact .inr ⟨_, _, by simp [State.pendingTransaction, hp], sequencerRow_poll hp⟩
  | drain =>
    cases hb : s.lByte with
    | false =>
      exact .inr ⟨_, _, by simp [State.pendingTransaction, hp, hb],
        (sequencerRow_drain hp).trans (if_neg (by simp [hb]))⟩
    | true => exact .inr ⟨_, _, by simp [State.pendingTransaction, hp, hb], (sequencerRow_drain hp).trans (if_pos hb)⟩

theorem sequencerRow_nil (he : s.env = []) (ht : s.pendingTransaction ≠ none) : sequencerRow s = s := by
  rcases sequencerRow_of_pending ht with ⟨r, v, k, -, hrow⟩ | ⟨r, k, -, hrow⟩
  · exact hrow.trans (busWrite_nil he)
  · exact hrow.trans (busRead_nil he)

theorem sequencerRow_silent {rest : List EnvEvent} (he : s.env = .silent :: rest) (ht : s.pendingTransaction ≠ none) :
    sequencerRow s = { s with env := rest } := by
  rcases sequencerRow_of_pending ht with ⟨r, v, k, -, hrow⟩ | ⟨r, k, -, hrow⟩
  · exact hrow.trans (busWrite_silent he)
  · exact hrow.trans (busRead_silent he)

theorem phase_ne_idle_of_pending (ht : s.pendingTransaction ≠ none) : s.phase ≠ .idle := by
  intro hp
  exact ht (by simp [State.pendingTransaction, hp])

theorem waiting_nil (he : s.env = []) (ht : s.pendingTransaction ≠ none) : s.waiting = true := by
  by_cases hp : s.phase = .select
  · simp [State.waiting, he, cacheHit_eq_false_of_pending hp ht]
  · simp [State.waiting, he, hp]

/-- A run of rows with a transaction to make and no answer at hand stays where it is. -/
theorem runRows_nil (n : Nat) (he : s.env = []) (ht : s.pendingTransaction ≠ none) : runRows (n + 1) s = s :=
  (runRows_waiting n (phase_ne_idle_of_pending ht) (waiting_nil he ht)).trans (sequencerRow_nil he ht)

/-! ## Steps that wait (R40, R46) -/

theorem step_in_flight (hr : s.rstAsserted = false) (hp : s.phase ≠ .idle) : step s = .next (sequencerRow s) := by
  rcases step_cases s with ⟨hr', -⟩ | ⟨-, hi, -⟩ | ⟨-, hi, -⟩ | ⟨-, hi, -⟩ | ⟨-, -, hs⟩
  · simp [hr] at hr'
  · exact absurd hi hp
  · exact absurd hi hp
  · exact absurd hi hp
  · exact hs

theorem step_unpresented (hr : s.rstAsserted = false) (hp : s.phase = .idle) (hv : s.port.valid = false) :
    step s = .next (idleStep s) :=
  step_idleWait (by simp [State.nextEvent, hr, hp, State.atPort, hv])

theorem idleStep_silent {rest : List EnvEvent} (he : s.env = .silent :: rest) : idleStep s = { s with env := rest } := by
  simp [idleStep, he]

theorem idleStep_of_not_silent (he : ∀ rest, s.env ≠ .silent :: rest) : idleStep s = s := by
  unfold idleStep
  split
  · exact absurd ‹_› (he _)
  · rfl

theorem transaction?_eq_pending (hr : s.rstAsserted = false) : s.transaction? = s.pendingTransaction := by
  simp [State.transaction?, hr]

/-- Settles O51: a row that asks for a transaction waits for its answer (R46), and IDLE waits for a command (R40). -/
theorem blockWaitsForAnswersAndCommands : Obligations.BlockWaitsForAnswersAndCommands := by
  intro s hr
  refine ⟨fun hp ht => ?_, fun hp hv => ?_⟩
  · rw [transaction?_eq_pending hr] at ht
    rw [step_in_flight hr hp]
    exact ⟨fun he => by rw [sequencerRow_nil he ht], fun rest he => by rw [sequencerRow_silent he ht]⟩
  · rw [step_unpresented hr hp hv]
    exact ⟨fun rest he => by rw [idleStep_silent he], fun he => by rw [idleStep_of_not_silent he]⟩

/-! ## Commands that wait, and commands just accepted (R40, R41) -/

theorem exists_fields_of_isCommand {i : Instr} (h : i.isCommand = true) : ∃ f, i.fields? = some f := by
  cases i with
  | busPageSelect | busAddrRead | busAddrWrite => cases h
  | _ => exact ⟨_, rfl⟩

/-- Settles O9: every command is the access of its fields, and an access that is not ready changes nothing. -/
theorem commandWaitsWhileNotReady : Obligations.CommandWaitsWhileNotReady := by
  intro s i hi hready
  obtain ⟨f, hf⟩ := exists_fields_of_isCommand hi
  rw [exec_command hf, access_not_ready hready]

theorem access_unanswered {f : CmdFields} (hp : s.phase = .idle) (he : s.env = []) :
    access f s = runRows Config.maxRows (accept f s) :=
  access_ready ((cmdReady_iff s).2 ⟨hp, by simp [State.rstAsserted, he]⟩)

theorem access_write_unanswered {f : CmdFields} (hp : s.phase = .idle) (he : s.env = []) (hd : f.dir = true) :
    access f s = accept f s := by
  rw [access_unanswered hp he]
  exact runRows_nil _ (by simp [he]) (by simp [State.pendingTransaction, hd])

theorem access_read_miss_unanswered {f : CmdFields} (hp : s.phase = .idle) (he : s.env = []) (hd : f.dir = false)
    (hc : s.cache ≠ ⟨true, f.page⟩) : access f s = accept f s := by
  rw [access_unanswered hp he]
  exact runRows_nil _ (by simp [he]) (by simp [State.pendingTransaction, hd, cacheHit_iff, hc])

theorem access_read_hit_unanswered {f : CmdFields} (hp : s.phase = .idle) (he : s.env = []) (hd : f.dir = false)
    (hc : s.cache = ⟨true, f.page⟩) : access f s = { accept f s with phase := .addr } := by
  rw [access_unanswered hp he, Config.maxRows, runRows_select_hit (by simp [hd]) (by simp [hc])]
  exact runRows_nil _ (by simp [he]) (by simp [State.pendingTransaction])

/-- An accepted command with no answer at hand: only the accept happens, and a read whose page is cached goes on to ADDR. -/
theorem access_eq_accept_of_unanswered {f : CmdFields} (hp : s.phase = .idle) (he : s.env = []) :
    access f s = { accept f s with
      phase := if f.dir = true then .stage else if s.cache = ⟨true, f.page⟩ then .addr else .select } := by
  cases hd : f.dir with
  | true => rw [access_write_unanswered hp he hd]; simp [accept, hd]
  | false =>
    by_cases hc : s.cache = ⟨true, f.page⟩
    · rw [access_read_hit_unanswered hp he hd hc]; simp [hc]
    · rw [access_read_miss_unanswered hp he hd hc]; simp [accept, hd, hc]

/-- Settles O10: with no answer at hand the access is the accept, gone on to ADDR on a hit. -/
theorem acceptLatchesTheCommand : Obligations.AcceptLatchesTheCommand := by
  intro s i f hf hp he
  refine ⟨access f s, exec_command hf s, ?_⟩
  rw [access_eq_accept_of_unanswered hp he]
  refine ⟨by simp [State.holds], fun hd => by simp [hd], ?_⟩
  simp [he]

end Sys2Proof.Machine
end

section
/-!
PAGE_CACHE along the trace: what a step does to the cache is what the events it appended do to it (R22, R23; O14, O48).
-/
namespace Sys2Proof.Machine

variable {s t u : State}

/-- R23: from `s` to `t` the trace only grew, and the cache changed by the new events alone. -/
def CacheFollowsTrace (s t : State) : Prop :=
  ∃ new, t.trace = s.trace ++ new ∧ t.cache = new.foldl cacheAfter s.cache

theorem CacheFollowsTrace.of_eq (ht : t.trace = s.trace) (hc : t.cache = s.cache) : CacheFollowsTrace s t :=
  ⟨[], by simp [ht], hc⟩

theorem CacheFollowsTrace.of_event {e : BusEvent} (ht : t.trace = s.trace ++ [e]) (hc : t.cache = cacheAfter s.cache e) :
    CacheFollowsTrace s t :=
  ⟨[e], ht, hc⟩

theorem CacheFollowsTrace.trans (hst : CacheFollowsTrace s t) (htu : CacheFollowsTrace t u) : CacheFollowsTrace s u := by
  obtain ⟨new, ht, hc⟩ := hst
  obtain ⟨new', ht', hc'⟩ := htu
  exact ⟨new ++ new', by rw [ht', ht, List.append_assoc], by rw [hc', hc, List.foldl_append]⟩

theorem cacheAfter_select (c : PageCache) (p : Page) : cacheAfter c (.w .page (pageSelectWord p)) = ⟨true, p⟩ :=
  congrArg (PageCache.mk true) (pageSelectWord_fields p).1

theorem resetRegisters_followsTrace (s : State) : CacheFollowsTrace s (resetRegisters s) :=
  .of_event (e := .rst) rfl rfl

/-- A bus write whose continuation adds nothing to the trace and does to the cache what the write's own event does. -/
theorem busWrite_followsTrace {r : BusReg} {v : BusWord} {k : State → State} (s : State)
    (hk : ∀ x : State, (k x).trace = x.trace ∧ (k x).cache = cacheAfter x.cache (.w r v)) :
    CacheFollowsTrace s (busWrite r v k s) := by
  rcases busWrite_cases r v k s with
    ⟨-, hb⟩ | ⟨rest, -, hb⟩ | ⟨rest, -, hb⟩ | ⟨x, rest, -, hb⟩ | ⟨e, rest, -, hb⟩ <;> rw [hb]
  · exact .of_eq rfl rfl
  · exact .of_eq rfl rfl
  · exact resetRegisters_followsTrace _
  · exact .of_event (hk _).1 (hk _).2
  · exact .of_event (e := .wErr r v e) rfl rfl

/-- A bus read whose continuation leaves the trace and the cache alone. -/
theorem busRead_followsTrace {r : BusReg} {k : BusWord → State → State} (s : State)
    (hk : ∀ (v : BusWord) (x : State), (k v x).trace = x.trace ∧ (k v x).cache = x.cache) :
    CacheFollowsTrace s (busRead r k s) := by
  rcases busRead_cases r k s with
    ⟨-, hb⟩ | ⟨rest, -, hb⟩ | ⟨rest, -, hb⟩ | ⟨x, rest, -, hb⟩ | ⟨e, rest, -, hb⟩ <;> rw [hb]
  · exact .of_eq rfl rfl
  · exact .of_eq rfl rfl
  · exact resetRegisters_followsTrace _
  · exact .of_event (e := .r r x) (hk x _).1 (hk x _).2
  · exact .of_event (e := .rErr r e) rfl rfl

theorem stageRow_followsTrace (s : State) : CacheFollowsTrace s (stageRow s) := by
  refine busWrite_followsTrace s fun x => ?_
  exact ⟨rfl, rfl⟩

theorem selectRow_followsTrace (s : State) : CacheFollowsTrace s (selectRow s) := by
  cases hc : s.cacheHit s.lPage with
  | true => rw [selectRow_hit hc]; exact .of_eq rfl rfl
  | false =>
    rw [selectRow_miss hc, pageSelectWrite]
    refine busWrite_followsTrace s fun x => ?_
    exact ⟨rfl, by rw [cacheAfter_select]⟩

theorem addrRow_followsTrace (s : State) : CacheFollowsTrace s (addrRow s) := by
  refine busWrite_followsTrace s fun x => ?_
  exact ⟨rfl, rfl⟩

theorem pollRow_followsTrace (s : State) : CacheFollowsTrace s (pollRow s) := by
  refine busRead_followsTrace s fun v x => ?_
  cases pollComplete v with
  | true => cases hd : x.lDir <;> simp [pollDone, hd]
  | false =>
    by_cases hb : x.pollCnt.toNat + 1 < Config.pollMax
    · simp [pollPending_below hb]
    · simp [pollPending_last hb]

theorem drainRow_followsTrace (s : State) : CacheFollowsTrace s (drainRow s) := by
  unfold drainRow
  split
  · refine busRead_followsTrace s fun v x => ?_
    exact ⟨rfl, rfl⟩
  · refine busRead_followsTrace s fun v x => ?_
    dsimp only
    split <;> exact ⟨rfl, rfl⟩

theorem sequencerRow_followsTrace (s : State) : CacheFollowsTrace s (sequencerRow s) := by
  cases hp : s.phase with
  | idle => rw [sequencerRow_idle hp]; exact .of_eq rfl rfl
  | stage => rw [sequencerRow_stage hp]; exact stageRow_followsTrace s
  | select => rw [sequencerRow_select hp]; exact selectRow_followsTrace s
  | addr => rw [sequencerRow_addr hp]; exact addrRow_followsTrace s
  | poll => rw [sequencerRow_poll hp]; exact pollRow_followsTrace s
  | drain => rw [sequencerRow_drain hp]; exact drainRow_followsTrace s

theorem access_followsTrace (f : CmdFields) (s : State) : CacheFollowsTrace s (access f s) := by
  cases hready : s.cmdReady with
  | false => rw [access_not_ready hready]; exact .of_eq rfl rfl
  | true =>
    rw [access_ready hready]
    exact runRows_induct (CacheFollowsTrace s) (fun x hx => hx.trans (sequencerRow_followsTrace x)) _ _
      (.of_eq (accept_trace f s) (accept_cache f s))

theorem idleStep_followsTrace (s : State) : CacheFollowsTrace s (idleStep s) := by
  unfold idleStep
  split <;> exact .of_eq rfl rfl

theorem step_followsTrace (h : step s = .next t) : CacheFollowsTrace s t := by
  rcases step_cases s with
    ⟨-, hs⟩ | ⟨-, -, i, f, -, -, -, hs⟩ | ⟨-, -, -, -, hs⟩ | ⟨-, -, -, hs⟩ | ⟨-, -, hs⟩ <;>
    cases hs.symm.trans h
  · exact resetRegisters_followsTrace _
  · exact access_followsTrace f s
  · exact .of_eq (by simp [acceptIllegal]) (by simp [acceptIllegal])
  · exact idleStep_followsTrace s
  · exact sequencerRow_followsTrace s

/-- Settles O14: every row, and so every step, changes the cache by the events it appends (R23). -/
theorem onlySelectAndResetWriteCache : Obligations.OnlySelectAndResetWriteCache :=
  fun _ _ => step_followsTrace

/-- The cache of R23 shows the page of R22 after every event. -/
theorem view_cacheAfter (c : PageCache) (e : BusEvent) : (cacheAfter c e).view = selectedAfter c.view e := by
  cases e with
  | w r v => cases r <;> rfl
  | _ => rfl

theorem view_foldl_cacheAfter (new : List BusEvent) (c : PageCache) :
    (new.foldl cacheAfter c).view = new.foldl selectedAfter c.view :=
  (List.foldl_hom PageCache.view fun c e => (view_cacheAfter c e).symm).symm

theorem selectedIn_append (old new : List BusEvent) :
    selectedIn (old ++ new) = new.foldl selectedAfter (selectedIn old) :=
  List.foldl_append

/-- R22: a cache that shows the selected page shows it after everything that follows the trace. -/
theorem CacheFollowsTrace.view_eq (hst : CacheFollowsTrace s t) (hs : s.cache.view = selectedIn s.trace) :
    t.cache.view = selectedIn t.trace := by
  obtain ⟨new, ht, hc⟩ := hst
  rw [hc, view_foldl_cacheAfter, hs, ht, selectedIn_append]

/-- Settles O48: the sentinel stands for an empty trace, and a step's cache follows its trace. -/
theorem cacheMirrorsConfirmedSelects : Obligations.CacheMirrorsConfirmedSelects :=
  ⟨rfl, fun _ _ hs h => (step_followsTrace h).view_eq hs⟩

end Sys2Proof.Machine
end

section
/-!
The machine's invariant: what each PHASE says of the registers, kept by every row of R150, by the accept and by reset (O46, O47).
-/
namespace Sys2Proof.Machine

variable {s t : State}

/-! ## The invariant by phase -/

/-- R108: RDATA is zero above the access's slots, and above bit 7 for the 8-bit width. -/
def State.RdataFits (s : State) : Prop :=
  s.rdata.toNat < 2 ^ (16 * s.nslots.toNat) ∧ (s.lByte = true → s.rdata.toNat < 2 ^ 8)

/-- R31: when the host may use RDATA. -/
theorem rdataSpecified_iff : s.rdataSpecified = true ↔ s.done = true ∧ s.status = .ok ∧ s.lDir = false := by
  simp [State.rdataSpecified, and_assoc]

/-- R34, R104: the access is not finished, and its width is that of a legal command. -/
def State.InFlight (s : State) : Prop :=
  s.done = false ∧ (s.lByte = true → s.lNslot = 0)

/-- R26: what each PHASE says of the registers. -/
def State.PhaseInv (s : State) : Prop :=
  match s.phase with
  | .idle => s.rdataSpecified = true → s.RdataFits
  | .stage => s.InFlight ∧ s.lDir = true ∧ s.slotIdx < s.nslots
  | .select => s.InFlight
  | .addr => s.InFlight ∧ s.cache = ⟨true, s.lPage⟩
  | .poll => s.InFlight ∧ s.cache = ⟨true, s.lPage⟩ ∧ s.pollCnt.toNat < Config.pollMax
  | .drain =>
    s.InFlight ∧ s.cache = ⟨true, s.lPage⟩ ∧ s.lDir = false ∧ s.slotIdx < s.nslots ∧
      s.acc.toNat < 2 ^ (16 * s.slotIdx.toNat)

theorem phaseInv_idle (hp : s.phase = .idle) : s.PhaseInv ↔ (s.rdataSpecified = true → s.RdataFits) := by
  simp [State.PhaseInv, hp]

theorem phaseInv_stage (hp : s.phase = .stage) :
    s.PhaseInv ↔ s.InFlight ∧ s.lDir = true ∧ s.slotIdx < s.nslots := by
  simp [State.PhaseInv, hp]

theorem phaseInv_select (hp : s.phase = .select) : s.PhaseInv ↔ s.InFlight := by
  simp [State.PhaseInv, hp]

theorem phaseInv_addr (hp : s.phase = .addr) : s.PhaseInv ↔ s.InFlight ∧ s.cache = ⟨true, s.lPage⟩ := by
  simp [State.PhaseInv, hp]

theorem phaseInv_poll (hp : s.phase = .poll) :
    s.PhaseInv ↔ s.InFlight ∧ s.cache = ⟨true, s.lPage⟩ ∧ s.pollCnt.toNat < Config.pollMax := by
  simp [State.PhaseInv, hp]

theorem phaseInv_drain (hp : s.phase = .drain) :
    s.PhaseInv ↔ s.InFlight ∧ s.cache = ⟨true, s.lPage⟩ ∧ s.lDir = false ∧ s.slotIdx < s.nslots ∧
      s.acc.toNat < 2 ^ (16 * s.slotIdx.toNat) := by
  simp [State.PhaseInv, hp]

theorem State.PhaseInv.inFlight (h : s.PhaseInv) (hp : s.phase ≠ .idle) : s.InFlight := by
  cases hph : s.phase with
  | idle => exact absurd hph hp
  | stage => exact ((phaseInv_stage hph).1 h).1
  | select => exact (phaseInv_select hph).1 h
  | addr => exact ((phaseInv_addr hph).1 h).1
  | poll => exact ((phaseInv_poll hph).1 h).1
  | drain => exact ((phaseInv_drain hph).1 h).1

/-- The part of the invariant that neither the trace nor the environment matters to. -/
structure State.RegInv (s : State) : Prop where
  slot_range : s.slotIdx.toNat ≤ 4
  poll_range : s.pollCnt.toNat ≤ Config.pollMax
  phase_inv : s.PhaseInv

theorem State.Inv.phaseInv (h : s.Inv) : s.PhaseInv := by
  have hfly (hp : s.phase ≠ .idle) : s.InFlight := ⟨Bool.eq_false_iff.2 fun hd => hp (h.done_idle hd), h.byte_one hp⟩
  cases hp : s.phase with
  | idle => exact (phaseInv_idle hp).2 h.rdata_low
  | stage => exact (phaseInv_stage hp).2 ⟨hfly (by simp [hp]), h.stage_write hp⟩
  | select => exact (phaseInv_select hp).2 (hfly (by simp [hp]))
  | addr => exact (phaseInv_addr hp).2 ⟨hfly (by simp [hp]), h.selected (.inl hp)⟩
  | poll => exact (phaseInv_poll hp).2 ⟨hfly (by simp [hp]), h.selected (.inr (.inl hp)), h.poll_below hp⟩
  | drain =>
    obtain ⟨hdir, hslot⟩ := h.drain_read hp
    exact (phaseInv_drain hp).2 ⟨hfly (by simp [hp]), h.selected (.inr (.inr hp)), hdir, hslot, h.acc_low hp⟩

theorem State.RegInv.done_idle (h : s.RegInv) (hd : s.done = true) : s.phase = .idle := by
  by_contra hp
  exact absurd ((h.phase_inv.inFlight hp).1.symm.trans hd) (by decide)

theorem State.RegInv.selected (h : s.RegInv) (hp : s.phase = .addr ∨ s.phase = .poll ∨ s.phase = .drain) :
    s.cache = ⟨true, s.lPage⟩ := by
  rcases hp with hp | hp | hp
  · exact ((phaseInv_addr hp).1 h.phase_inv).2
  · exact ((phaseInv_poll hp).1 h.phase_inv).2.1
  · exact ((phaseInv_drain hp).1 h.phase_inv).2.1

theorem State.RegInv.inv (h : s.RegInv) (htrace : s.cache.view = selectedIn s.trace) : s.Inv where
  done_idle := h.done_idle
  slot_range := h.slot_range
  poll_range := h.poll_range
  poll_below hp := ((phaseInv_poll hp).1 h.phase_inv).2.2
  stage_write hp := ((phaseInv_stage hp).1 h.phase_inv).2
  drain_read hp := by
    obtain ⟨-, -, hdir, hslot, -⟩ := (phaseInv_drain hp).1 h.phase_inv
    exact ⟨hdir, hslot⟩
  byte_one hp := (h.phase_inv.inFlight hp).2
  selected := h.selected
  acc_low hp := by
    obtain ⟨-, -, -, -, hacc⟩ := (phaseInv_drain hp).1 h.phase_inv
    exact hacc
  rdata_low hr := by
    obtain ⟨hd, -⟩ := rdataSpecified_iff.1 hr
    exact (phaseInv_idle (h.done_idle hd)).1 h.phase_inv hr
  cache_trace := htrace

/-- The invariant is that of the registers, by phase, and R22's about the trace. -/
theorem inv_iff : s.Inv ↔ s.RegInv ∧ s.cache.view = selectedIn s.trace :=
  ⟨fun h => ⟨⟨h.slot_range, h.poll_range, h.phaseInv⟩, h.cache_trace⟩, fun ⟨h, htrace⟩ => h.inv htrace⟩

/-! ## Slot counts and assembled values -/

theorem toNat_nslots (s : State) : s.nslots.toNat = s.lNslot.toNat + 1 := by
  have := s.lNslot.isLt
  simp [State.nslots]
  omega

theorem zero_lt_nslots (s : State) : 0 < s.nslots := by
  have hn := toNat_nslots s
  exact BitVec.lt_def.2 (hn ▸ Nat.succ_pos _)

/-- Below its slot count SLOT_IDX counts on without wrap (R27). -/
theorem toNat_slotIdx_succ (h : s.slotIdx < s.nslots) :
    (s.slotIdx + 1).toNat = s.slotIdx.toNat + 1 ∧ s.slotIdx.toNat + 1 ≤ s.nslots.toNat ∧ s.nslots.toNat ≤ 4 := by
  have hn := toNat_nslots s
  have := s.lNslot.isLt
  have : s.slotIdx.toNat < s.nslots.toNat := h
  refine ⟨?_, by omega, by omega⟩
  simp
  omega

theorem slotIdx_succ_lt (h : s.slotIdx < s.nslots) (hne : s.slotIdx + 1 ≠ s.nslots) : s.slotIdx + 1 < s.nslots := by
  obtain ⟨hsucc, hle, -⟩ := toNat_slotIdx_succ h
  have : s.slotIdx.toNat + 1 ≠ s.nslots.toNat := fun he => hne (BitVec.eq_of_toNat_eq (hsucc.trans he))
  exact BitVec.lt_def.2 (by omega)

/-- R161: a slot word placed above the lower slots reaches up to the next slot. -/
theorem placeSlot_lt {acc : Value} {i : BitVec 3} (h : acc.toNat < 2 ^ (16 * i.toNat)) (w : BusWord) :
    (placeSlot acc i w).toNat < 2 ^ (16 * (i.toNat + 1)) := by
  have hpow : 2 ^ (16 * (i.toNat + 1)) = 2 ^ 16 * 2 ^ (16 * i.toNat) := by
    rw [← Nat.pow_add]
    congr 1
    omega
  rw [placeSlot, BitVec.toNat_or]
  refine Nat.or_lt_two_pow (h.trans_le (Nat.pow_le_pow_right (by decide) (by omega))) ?_
  calc (w.setWidth 64 <<< (16 * i.toNat)).toNat
      ≤ w.toNat * 2 ^ (16 * i.toNat) := by
        rw [BitVec.toNat_shiftLeft, BitVec.toNat_setWidth_of_le (by decide), Nat.shiftLeft_eq]
        exact Nat.mod_le _ _
    _ < 2 ^ (16 * (i.toNat + 1)) := by
        rw [hpow]
        exact Nat.mul_lt_mul_of_pos_right w.isLt (Nat.two_pow_pos _)

theorem byteOfSlot_lt (w : BusWord) : (byteOfSlot w).toNat < 2 ^ 8 := by
  rw [byteOfSlot, BitVec.toNat_setWidth_of_le (by decide)]
  exact BitVec.isLt _

/-! ## The ends of a command, and reset -/

/-- An error leaves no specified RDATA, so only the counters' ranges matter. -/
theorem raise_regInv (k : ErrorKind) (hslot : s.slotIdx.toNat ≤ 4) (hpoll : s.pollCnt.toNat ≤ Config.pollMax) :
    (raise k s).RegInv where
  slot_range := hslot
  poll_range := hpoll
  phase_inv := (phaseInv_idle rfl).2 fun hr => by
    obtain ⟨-, hok, -⟩ := rdataSpecified_iff.1 hr
    cases k <;> cases hok

theorem finishWrite_regInv (hslot : s.slotIdx.toNat ≤ 4) (hpoll : s.pollCnt.toNat ≤ Config.pollMax)
    (hdir : s.lDir = true) : (finishWrite s).RegInv where
  slot_range := hslot
  poll_range := hpoll
  phase_inv := (phaseInv_idle rfl).2 fun hr => by
    obtain ⟨-, -, hread⟩ := rdataSpecified_iff.1 hr
    exact absurd (hdir.symm.trans hread) (by decide)

theorem finishRead_regInv (hslot : s.slotIdx.toNat ≤ 4) (hpoll : s.pollCnt.toNat ≤ Config.pollMax)
    (hacc : s.acc.toNat < 2 ^ (16 * s.nslots.toNat)) (hbyte : s.lByte = true → s.acc.toNat < 2 ^ 8) :
    (finishRead s).RegInv where
  slot_range := hslot
  poll_range := hpoll
  phase_inv := (phaseInv_idle rfl).2 fun _ => ⟨hacc, hbyte⟩

theorem resetRegisters_regInv (s : State) : (resetRegisters s).RegInv where
  slot_range := by simp
  poll_range := by simp
  phase_inv := (phaseInv_idle rfl).2 fun hr => by
    obtain ⟨hdone, -⟩ := rdataSpecified_iff.1 hr
    cases hdone

theorem reset_regInv : State.reset.RegInv where
  slot_range := by decide
  poll_range := by decide
  phase_inv := (phaseInv_idle rfl).2 fun hr => absurd hr (by decide)

/-- Settles O46: IDLE with both counters and DONE at 0, and the sentinel for an empty trace (R48). -/
theorem resetMeetsInvariant : Obligations.ResetMeetsInvariant :=
  ⟨inv_iff.2 ⟨reset_regInv, rfl⟩, rfl, rfl, rfl, rfl, rfl, rfl, rfl⟩

/-! ## Bus transactions -/

theorem State.RegInv.with_env_trace (h : s.RegInv) (env : List EnvEvent) (trace : List BusEvent) :
    { s with env := env, trace := trace }.RegInv :=
  ⟨h.slot_range, h.poll_range, h.phase_inv⟩

theorem State.RegInv.with_env (h : s.RegInv) (env : List EnvEvent) : { s with env := env }.RegInv :=
  h.with_env_trace env s.trace

/-- A bus write keeps the registers' invariant when what a successful answer does keeps it. -/
theorem busWrite_regInv {r : BusReg} {v : BusWord} {k : State → State} (h : s.RegInv)
    (hk : ∀ env trace, (k { s with env := env, trace := trace }).RegInv) : (busWrite r v k s).RegInv := by
  rcases busWrite_cases r v k s with
    ⟨-, hb⟩ | ⟨rest, -, hb⟩ | ⟨rest, -, hb⟩ | ⟨x, rest, -, hb⟩ | ⟨e, rest, -, hb⟩ <;> rw [hb]
  · exact h
  · exact h.with_env rest
  · exact resetRegisters_regInv _
  · exact hk _ _
  · exact raise_regInv _ h.slot_range h.poll_range

/-- A bus read keeps the registers' invariant when what a successful answer does keeps it. -/
theorem busRead_regInv {r : BusReg} {k : BusWord → State → State} (h : s.RegInv)
    (hk : ∀ v env trace, (k v { s with env := env, trace := trace }).RegInv) : (busRead r k s).RegInv := by
  rcases busRead_cases r k s with
    ⟨-, hb⟩ | ⟨rest, -, hb⟩ | ⟨rest, -, hb⟩ | ⟨x, rest, -, hb⟩ | ⟨e, rest, -, hb⟩ <;> rw [hb]
  · exact h
  · exact h.with_env rest
  · exact resetRegisters_regInv _
  · exact hk _ _ _
  · exact raise_regInv _ h.slot_range h.poll_range

/-! ## The rows of R150 -/

theorem stageRow_regInv (h : s.RegInv) (hp : s.phase = .stage) : (stageRow s).RegInv := by
  obtain ⟨hfly, hdir, hslot⟩ := (phaseInv_stage hp).1 h.phase_inv
  obtain ⟨hsucc, hle, hfour⟩ := toNat_slotIdx_succ hslot
  refine busWrite_regInv h fun env trace => ⟨?_, h.poll_range, ?_⟩
  · exact hsucc.trans_le (hle.trans hfour)
  · by_cases hlast : s.slotIdx + 1 = s.nslots
    · exact (phaseInv_select (if_pos hlast)).2 hfly
    · exact (phaseInv_stage (if_neg hlast)).2 ⟨hfly, hdir, slotIdx_succ_lt hslot hlast⟩

theorem selectRow_regInv (h : s.RegInv) (hp : s.phase = .select) : (selectRow s).RegInv := by
  have hfly := (phaseInv_select hp).1 h.phase_inv
  cases hc : s.cacheHit s.lPage with
  | true =>
    rw [selectRow_hit hc]
    exact ⟨h.slot_range, h.poll_range, (phaseInv_addr rfl).2 ⟨hfly, (cacheHit_iff s _).1 hc⟩⟩
  | false =>
    rw [selectRow_miss hc]
    refine busWrite_regInv h fun env trace => ?_
    exact ⟨h.slot_range, h.poll_range, (phaseInv_addr rfl).2 ⟨hfly, rfl⟩⟩

theorem addrRow_regInv (h : s.RegInv) (hp : s.phase = .addr) : (addrRow s).RegInv := by
  obtain ⟨hfly, hcache⟩ := (phaseInv_addr hp).1 h.phase_inv
  unfold addrRow addrWrite
  refine busWrite_regInv h fun env trace => ?_
  exact ⟨h.slot_range, Nat.zero_le _, (phaseInv_poll rfl).2 ⟨hfly, hcache, (show 0 < Config.pollMax by decide)⟩⟩

theorem pollDone_regInv (h : s.RegInv) (hp : s.phase = .poll) : (pollDone s).RegInv := by
  obtain ⟨hfly, hcache, -⟩ := (phaseInv_poll hp).1 h.phase_inv
  unfold pollDone
  split
  next hd => exact finishWrite_regInv h.slot_range h.poll_range hd
  next hd =>
    exact ⟨Nat.zero_le _, h.poll_range,
      (phaseInv_drain rfl).2 ⟨hfly, hcache, by simpa using hd, zero_lt_nslots s, Nat.one_pos⟩⟩

theorem pollPending_regInv (h : s.RegInv) (hp : s.phase = .poll) : (pollPending s).RegInv := by
  obtain ⟨hfly, hcache, hbelow⟩ := (phaseInv_poll hp).1 h.phase_inv
  have hsucc : (s.pollCnt + 1).toNat = s.pollCnt.toNat + 1 := by
    simp only [Config.pollMax] at hbelow
    simp
    omega
  by_cases hb : s.pollCnt.toNat + 1 < Config.pollMax
  · rw [pollPending_below hb]
    rw [← hsucc] at hb
    exact ⟨h.slot_range, hb.le, (phaseInv_poll (by exact hp)).2 ⟨hfly, hcache, hb⟩⟩
  · rw [pollPending_last hb]
    exact raise_regInv _ h.slot_range (hsucc.trans_le hbelow)

theorem pollRow_regInv (h : s.RegInv) (hp : s.phase = .poll) : (pollRow s).RegInv := by
  refine busRead_regInv h fun v env trace => ?_
  cases pollComplete v with
  | true => exact pollDone_regInv (h.with_env_trace env trace) hp
  | false => exact pollPending_regInv (h.with_env_trace env trace) hp

theorem drainByte_regInv (h : s.RegInv) : (drainByte s).RegInv := by
  have hone : (1 : BitVec 3).toNat ≤ 4 := by decide
  have hbits : 8 ≤ 16 * s.nslots.toNat := by
    have hn := toNat_nslots s
    omega
  refine busRead_regInv h fun v env trace => ?_
  exact finishRead_regInv hone h.poll_range ((byteOfSlot_lt v).trans_le (Nat.pow_le_pow_right (by decide) hbits))
    fun _ => byteOfSlot_lt v

theorem drainSlot_regInv (h : s.RegInv) (hp : s.phase = .drain) (hb : s.lByte = false) : (drainSlot s).RegInv := by
  obtain ⟨hfly, hcache, hdir, hslot, hacc⟩ := (phaseInv_drain hp).1 h.phase_inv
  obtain ⟨hsucc, hle, hfour⟩ := toNat_slotIdx_succ hslot
  refine busRead_regInv h fun v env trace => ?_
  have hplace : (placeSlot s.acc s.slotIdx v).toNat < 2 ^ (16 * (s.slotIdx + 1).toNat) := by
    rw [hsucc]
    exact placeSlot_lt hacc v
  by_cases hlast : s.slotIdx + 1 = s.nslots
  · rw [if_pos (by exact hlast)]
    refine finishRead_regInv (hsucc.trans_le (hle.trans hfour)) h.poll_range ?_ fun hb' => ?_
    · rw [hlast] at hplace
      exact hplace
    · exact absurd (hb.symm.trans hb') (by decide)
  · rw [if_neg (by exact hlast)]
    exact ⟨hsucc.trans_le (hle.trans hfour), h.poll_range,
      (phaseInv_drain (by exact hp)).2 ⟨hfly, hcache, hdir, slotIdx_succ_lt hslot hlast, hplace⟩⟩

theorem drainRow_regInv (h : s.RegInv) (hp : s.phase = .drain) : (drainRow s).RegInv := by
  unfold drainRow
  split
  next hb => exact drainByte_regInv h
  next hb => exact drainSlot_regInv h hp (by simpa using hb)

theorem sequencerRow_regInv (s : State) (h : s.RegInv) : (sequencerRow s).RegInv := by
  cases hp : s.phase with
  | idle => rw [sequencerRow_idle hp]; exact h
  | stage => rw [sequencerRow_stage hp]; exact stageRow_regInv h hp
  | select => rw [sequencerRow_select hp]; exact selectRow_regInv h hp
  | addr => rw [sequencerRow_addr hp]; exact addrRow_regInv h hp
  | poll => rw [sequencerRow_poll hp]; exact pollRow_regInv h hp
  | drain => rw [sequencerRow_drain hp]; exact drainRow_regInv h hp

/-! ## Accepts, whole accesses and steps -/

/-- R104: a legal command of the 8-bit width has one slot. -/
theorem nslot_eq_zero_of_legal {f : CmdFields} (hlegal : f.legal = true) (hb : f.byte = true) : f.nslot = 0 := by
  simpa [CmdFields.legal, hb] using (Bool.and_eq_true_iff.1 hlegal).2

/-- The fields a command is encoded with are legal (R103). -/
theorem legal_of_fields {i : Instr} {f : CmdFields} (hi : i.fields? = some f) : f.legal = true := by
  cases i <;> cases hi <;> rfl

theorem accept_regInv {f : CmdFields} (hlegal : f.legal = true) (s : State) : (accept f s).RegInv := by
  have hfly : (accept f s).InFlight := by
    simpa [State.InFlight] using nslot_eq_zero_of_legal hlegal
  refine ⟨by simp, by simp, ?_⟩
  cases hd : f.dir with
  | true =>
    refine (phaseInv_stage (by simp [hd])).2 ⟨hfly, by simp [hd], ?_⟩
    rw [accept_slotIdx]
    exact zero_lt_nslots _
  | false => exact (phaseInv_select (by simp [hd])).2 hfly

theorem access_regInv {f : CmdFields} (hlegal : f.legal = true) (h : s.RegInv) : (access f s).RegInv := by
  cases hready : s.cmdReady with
  | false => rw [access_not_ready hready]; exact h
  | true =>
    rw [access_ready hready]
    exact runRows_induct State.RegInv sequencerRow_regInv _ _ (accept_regInv hlegal s)

theorem acceptIllegal_regInv (w : CmdWord) (h : s.RegInv) : (acceptIllegal w s).RegInv :=
  raise_regInv _ (by simpa using h.slot_range) (by simpa using h.poll_range)

theorem idleStep_regInv (h : s.RegInv) : (idleStep s).RegInv := by
  unfold idleStep
  split
  · exact h.with_env _
  · exact h

theorem step_regInv (h : s.RegInv) (hst : step s = .next t) : t.RegInv := by
  rcases step_cases s with
    ⟨-, hs⟩ | ⟨-, -, i, f, -, -, hf, hs⟩ | ⟨-, -, -, -, hs⟩ | ⟨-, -, -, hs⟩ | ⟨-, -, hs⟩ <;>
    cases hs.symm.trans hst
  · exact resetRegisters_regInv _
  · exact access_regInv (legal_of_fields hf) h
  · exact acceptIllegal_regInv _ h
  · exact idleStep_regInv h
  · exact sequencerRow_regInv s h

/-- Settles O47: every row, accept and reset keeps the registers' invariant, and the cache follows the trace (R22). -/
theorem everyStepKeepsInvariant : Obligations.EveryStepKeepsInvariant := by
  intro s t hinv hst
  obtain ⟨hreg, htrace⟩ := inv_iff.1 hinv
  exact inv_iff.2 ⟨step_regInv hreg hst, (step_followsTrace hst).view_eq htrace⟩

end Sys2Proof.Machine
end

section
/-!
The order of an access's bus transactions: every slot of a write is staged before the page select and the trigger (R87), and a
slot is read only after a completing poll (R88) (O36, O37).
-/
namespace Sys2Proof.Machine

variable {f : CmdFields} {s t : State} {new : List BusEvent}

/-! ## The parts of a trace -/

/-- An event that does not stand in the front part of a list stands in what follows it. -/
theorem exists_append_of_not_mem {α : Type} {front rest pre post : List α} {e : α}
    (heq : front ++ rest = pre ++ e :: post) (he : e ∉ front) :
    ∃ mid, pre = front ++ mid ∧ rest = mid ++ e :: post := by
  rcases List.append_eq_append_iff.1 heq with ⟨mid, hpre, hrest⟩ | ⟨mid, hfront, hrest⟩
  · exact ⟨mid, hpre, hrest⟩
  · cases mid with
    | nil => exact ⟨[], by simpa using hfront.symm, by simpa using hrest.symm⟩
    | cons x mid =>
      obtain ⟨rfl, -⟩ := List.cons.inj hrest
      exact absurd (by simp [hfront]) he

/-- A transaction on PAGE or ADDR, or a reset: neither staging nor draining. -/
structure BusEvent.IsControl (e : BusEvent) : Prop where
  stages : e.stages = false
  drains : e.drains = false

/-- No transaction on PAGE or ADDR, and no draining. -/
structure BusEvent.IsStaging (e : BusEvent) : Prop where
  page : e.writes .page = false
  addr : e.writes .addr = false
  polls : e.polls = false
  drains : e.drains = false

theorem isStaging_of_mem_staged {v : Value} {n : Nat} {e : BusEvent} (he : e ∈ stagedTrace v n) : e.IsStaging := by
  obtain ⟨k, -, rfl⟩ := List.mem_map.1 he
  exact ⟨rfl, rfl, rfl, rfl⟩

theorem not_isStaging {e : BusEvent} (he : e.writes .page = true ∨ e.writes .addr = true ∨ e.polls = true) :
    ¬ e.IsStaging := by
  rintro ⟨hpage, haddr, hpoll, -⟩
  simp [hpage, haddr, hpoll] at he

/-- R114: the staging writes hold every slot's word of the value. -/
theorem mem_stagedTrace {v : Value} {n : Nat} {k : BitVec 3} (hk : k.toNat < n) :
    .w (.data k) (v.extractLsb' (16 * k.toNat) 16) ∈ stagedTrace v n :=
  List.mem_map.2 ⟨k.toNat, List.mem_range.2 hk, by rw [BitVec.ofNat_toNat, BitVec.setWidth_eq, slotWord_eq_extract]⟩

theorem not_stages_of_mem_drained {words : List BusWord} {e : BusEvent} (he : e ∈ drainedTrace words) :
    e.stages = false := by
  obtain ⟨k, hk, rfl⟩ := List.mem_mapIdx.1 he
  rfl

theorem isControl_of_mem_select {p : Page} {e : BusEvent} (he : e ∈ s.selectTrace p) : e.IsControl := by
  unfold State.selectTrace at he
  split at he
  · cases he
  · obtain rfl := List.mem_singleton.1 he
    exact ⟨rfl, rfl⟩

theorem isControl_of_mem_polls {p : Page} {w : BusWord} {pend : List BusWord} {e : BusEvent}
    (he : e ∈ s.selectTrace p ++ [.w .addr w] ++ pend.map (.r .addr)) : e.IsControl := by
  simp only [List.mem_append, List.mem_singleton, List.mem_map] at he
  rcases he with (he | rfl) | ⟨v, -, rfl⟩
  · exact isControl_of_mem_select he
  · exact ⟨rfl, rfl⟩
  · exact ⟨rfl, rfl⟩

/-- The transactions of a run_op up to here: page select, trigger, polls (R140). -/
def Site.control (f : CmdFields) (s : State) : Site → List BusEvent
  | .stage _ => []
  | .select => []
  | .addr => s.selectTrace f.page
  | .poll pend => s.selectTrace f.page ++ [.w .addr (addrWord f.reg (opcodeOf f.dir))] ++ pend.map (.r .addr)
  | .drain pend v _ => s.runOpTrace f.page f.reg (opcodeOf f.dir) pend v

theorem isControl_of_mem_control {site : Site} {e : BusEvent} (he : e ∈ site.control f s) : e.IsControl := by
  cases site with
  | stage | select => cases he
  | addr => exact isControl_of_mem_select he
  | poll pend => exact isControl_of_mem_polls he
  | drain pend v words =>
    rcases List.mem_append.1 he with he | he
    · exact isControl_of_mem_polls he
    · obtain rfl := List.mem_singleton.1 he
      exact ⟨rfl, rfl⟩

/-! ## The three forms of an access's trace -/

/-- What the transactions of an access look like, on any environment: staging only; everything staged, then control
transactions; or, for a read, control transactions up to a completing poll, then slot reads. -/
inductive AccessTrace (f : CmdFields) (s : State) (new : List BusEvent) : Prop where
  | staging (hdir : f.dir = true) (hnew : ∀ e ∈ new, e.IsStaging)
  | control (mid : List BusEvent) (hmid : ∀ e ∈ mid, e.IsControl)
      (hnew : new = stagedTrace s.port.wdata (stagedSlots f) ++ mid)
  | draining (mid : List BusEvent) (c : BusEvent) (reads : List BusEvent) (hdir : f.dir = false)
      (hmid : ∀ e ∈ mid, e.IsControl) (hc : c.completes = true) (hreads : ∀ e ∈ reads, e.stages = false)
      (hnew : new = mid ++ c :: reads)

theorem isControl_of_completes {c : BusEvent} (hc : c.completes = true) : c.IsControl := by
  unfold BusEvent.completes at hc
  split at hc
  · exact ⟨rfl, rfl⟩
  · cases hc

/-- At a site of a read's drain: the slot reads so far follow the completing poll. -/
theorem drain_accessTrace {pend : List BusWord} {v : BusWord} {words : List BusWord} (hdir : f.dir = false)
    (hv : pollComplete v = true) {tail : List BusEvent} (htail : ∀ e ∈ tail, e.stages = false) :
    AccessTrace f s (Site.trace f s (.drain pend v words) ++ tail) := by
  refine .draining (Site.control f s (.poll pend)) (.r .addr v) (drainedTrace words ++ tail) hdir
    (fun e he => isControl_of_mem_control he) hv (fun e he => ?_) (by simp [Site.trace, Site.control, stagedSlots, hdir])
  exact (List.mem_append.1 he).elim not_stages_of_mem_drained (htail e)

/-- From SELECT on, a trace that ends in a control transaction is the staging and then control transactions. -/
theorem control_accessTrace {site : Site} {tail : List BusEvent}
    (htrace : site.trace f s = stagedTrace s.port.wdata (stagedSlots f) ++ site.control f s)
    (htail : ∀ e ∈ tail, e.IsControl) : AccessTrace f s (site.trace f s ++ tail) :=
  .control (site.control f s ++ tail)
    (fun e he => (List.mem_append.1 he).elim isControl_of_mem_control (htail e)) (by rw [htrace, List.append_assoc])

/-- Wherever an access stands, fails or is reset, its trace has one of the three forms. -/
theorem site_accessTrace {site : Site} (hwf : site.wf f) {tail : List BusEvent}
    (htail : ∀ x ∈ tail, x = .rst ∨ ∃ e, x = site.failure f s e) : AccessTrace f s (site.trace f s ++ tail) := by
  cases site with
  | stage j =>
    refine .staging hwf.1 fun x hx => ?_
    rcases List.mem_append.1 hx with hx | hx
    · exact isStaging_of_mem_staged hx
    · rcases htail x hx with rfl | ⟨e, rfl⟩ <;> exact ⟨rfl, rfl, rfl, rfl⟩
  | select | addr | poll =>
    refine control_accessTrace (by simp [Site.trace, Site.control]) fun x hx => ?_
    rcases htail x hx with rfl | ⟨e, rfl⟩ <;> exact ⟨rfl, rfl⟩
  | drain pend v words =>
    obtain ⟨hdir, ⟨-, -, hv⟩, -⟩ : f.dir = false ∧ CompletesAfter pend v ∧ words.length ≤ f.nslot.toNat := hwf
    refine drain_accessTrace hdir hv fun x hx => ?_
    rcases htail x hx with rfl | ⟨e, rfl⟩ <;> rfl

/-- An access that ended with OK: a write after its completing poll, a read after its slot reads. -/
theorem EndsOk.accessTrace {pend : List BusWord} {v : BusWord} {words : List BusWord} (h : EndsOk f s t pend v words) :
    AccessTrace f s (Site.trace f s (.drain pend v words)) := by
  obtain ⟨-, -, hv⟩ := h.completes
  cases hdir : f.dir with
  | false => simpa using drain_accessTrace hdir hv (tail := []) (by simp)
  | true =>
    obtain rfl : words = [] := List.length_eq_zero_iff.1 (by simpa [hdir] using h.count)
    simpa using control_accessTrace (site := .drain pend v []) (tail := [])
      (by simp [Site.trace, Site.control, State.runOpTrace]) (by simp)

theorem Ending.accessTrace (h : Ending f s t) : ∃ new, t.trace = s.trace ++ new ∧ AccessTrace f s new := by
  cases h with
  | stands site h => exact ⟨site.trace f s, h.trace, by simpa using site_accessTrace h.wf (tail := []) (by simp)⟩
  | ok pend v words h => exact ⟨_, h.trace, h.accessTrace⟩
  | transport site e h =>
    exact ⟨_, h.trace.trans (List.append_assoc ..),
      site_accessTrace h.wf fun x hx => .inr ⟨e, List.mem_singleton.1 hx⟩⟩
  | timeout pend h =>
    have hform : AccessTrace f s (Site.trace f s (.poll pend) ++ []) :=
      control_accessTrace (by simp [Site.trace, Site.control]) (by simp)
    exact ⟨_, h.trace, by simpa using hform⟩
  | reset site h => exact ⟨_, h.trace.trans (List.append_assoc ..), site_accessTrace h.wf (by simp)⟩

/-! ## What the forms say of the order -/

theorem AccessTrace.read_stages_none (h : AccessTrace f s new) (hdir : f.dir = false) :
    ∀ e ∈ new, e.stages = false := by
  cases h with
  | staging hwrite => simp [hdir] at hwrite
  | control mid hmid hnew =>
    subst hnew
    exact fun e he => (hmid e (by simpa [stagedSlots, hdir] using he)).stages
  | draining mid c reads _ hmid hc hreads hnew =>
    subst hnew
    intro e he
    rcases List.mem_append.1 he with he | he
    · exact (hmid e he).stages
    · rcases List.mem_cons.1 he with rfl | he
      · exact (isControl_of_completes hc).stages
      · exact hreads e he

theorem AccessTrace.write_drains_none (h : AccessTrace f s new) (hdir : f.dir = true) :
    ∀ e ∈ new, e.drains = false := by
  cases h with
  | staging _ hnew => exact fun e he => (hnew e he).drains
  | control mid hmid hnew =>
    subst hnew
    exact fun e he => (List.mem_append.1 he).elim (fun he => (isStaging_of_mem_staged he).drains) fun he => (hmid e he).drains
  | draining mid c reads hread => simp [hdir] at hread

/-- R87: a transaction on PAGE or ADDR comes after all staging of the access. -/
theorem AccessTrace.staged_before (h : AccessTrace f s new) {pre post : List BusEvent} {e : BusEvent}
    (hnew : new = pre ++ e :: post) (he : ¬ e.IsStaging) :
    (∀ d ∈ post, d.stages = false) ∧ ∀ d ∈ stagedTrace s.port.wdata (stagedSlots f), d ∈ pre := by
  have hread := h.read_stages_none
  cases h with
  | staging _ hall => exact absurd (hall e (by simp [hnew])) he
  | control mid hmid hstaged =>
    obtain ⟨between, rfl, rfl⟩ :=
      exists_append_of_not_mem (hstaged.symm.trans hnew) fun hmem => he (isStaging_of_mem_staged hmem)
    exact ⟨fun d hd => (hmid d (by simp [hd])).stages, fun d hd => by simp [hd]⟩
  | draining _ _ _ hdir => exact ⟨fun d hd => hread hdir d (by simp [hnew, hd]), by simp [stagedSlots, hdir]⟩

/-- R88: a slot read comes after a completing poll. -/
theorem AccessTrace.completes_before (h : AccessTrace f s new) {pre post : List BusEvent} {e : BusEvent}
    (hnew : new = pre ++ e :: post) (he : e.drains = true) : ∃ c ∈ pre, c.completes = true := by
  have hmem : e ∈ new := by simp [hnew]
  cases h with
  | staging hdir hall => simp [(hall e hmem).drains] at he
  | control mid hmid hstaged =>
    rcases List.mem_append.1 (hstaged ▸ hmem) with hm | hm
    · simp [(isStaging_of_mem_staged hm).drains] at he
    · simp [(hmid e hm).drains] at he
  | draining mid c reads _ hmid hc _ htrace =>
    have hfront : e ∉ mid ++ [c] := by
      intro hm
      rcases List.mem_append.1 hm with hm | hm
      · simp [(hmid e hm).drains] at he
      · obtain rfl := List.mem_singleton.1 hm
        simp [(isControl_of_completes hc).drains] at he
    obtain ⟨between, rfl, -⟩ := exists_append_of_not_mem (rest := reads) (by simpa [htrace] using hnew) hfront
    exact ⟨c, by simp, hc⟩

/-- Settles O36: what is no staging comes after all of it, and a read stages nothing (R87). -/
theorem stagingComesFirst : Obligations.StagingComesFirst := by
  intro s i f hf hready
  obtain ⟨t, hexec, hend⟩ := exec_endings hf hready
  obtain ⟨new, htrace, hform⟩ := hend.accessTrace
  refine ⟨t, new, hexec, htrace, hform.read_stages_none,
    fun pre e post hnew => ⟨fun he => ?_, fun he hdir k hk => ?_⟩⟩
  · exact (hform.staged_before hnew (not_isStaging he)).1
  · have he' : e.writes .page = true ∨ e.writes .addr = true ∨ e.polls = true := he.imp_right .inl
    exact (hform.staged_before hnew (not_isStaging he')).2 _ (mem_stagedTrace (by simpa [stagedSlots, hdir] using hk))

/-- Settles O37: a slot read stands only in a read's drain, after the completing poll (R88). -/
theorem drainFollowsCompletion : Obligations.DrainFollowsCompletion := by
  intro s i f hf hready
  obtain ⟨t, hexec, hend⟩ := exec_endings hf hready
  obtain ⟨new, htrace, hform⟩ := hend.accessTrace
  exact ⟨t, new, hexec, htrace, hform.write_drains_none, fun _ _ _ => hform.completes_before⟩

end Sys2Proof.Machine
end

section
/-!
The request port under the invariant (R44, R63), and the access in flight apart from the command port (R93) (O45, O52).
-/
namespace Sys2Proof.Machine

variable {s : State}

/-! ## The request port -/

/-- R63: with SLOT_IDX below the slot count, every transaction a phase asks for is in the map. -/
theorem State.Inv.inMap_of_pending (h : s.Inv) {x : Transaction} (hx : s.pendingTransaction = some x) :
    x.inMap = true := by
  have hslot (hlt : s.slotIdx < s.nslots) : s.slotIdx.toNat < 4 := by
    obtain ⟨-, hle, hmax⟩ := toNat_slotIdx_succ hlt
    omega
  cases hp : s.phase with
  | idle => simp [State.pendingTransaction, hp] at hx
  | stage =>
    simp only [State.pendingTransaction, hp, Option.some.injEq] at hx
    subst hx
    exact decide_eq_true (hslot (h.stage_write hp).2)
  | select =>
    simp only [State.pendingTransaction, hp] at hx
    split at hx <;> cases hx
    rfl
  | addr | poll =>
    simp only [State.pendingTransaction, hp, Option.some.injEq] at hx
    subst hx
    rfl
  | drain =>
    simp only [State.pendingTransaction, hp, Option.some.injEq] at hx
    subst hx
    have := hslot (h.drain_read hp).2
    cases hb : s.lByte <;> simp [Transaction.inMap, this]

theorem State.Inv.inMap_of_transaction? (h : s.Inv) {x : Transaction} (hx : s.transaction? = some x) :
    x.inMap = true := by
  unfold State.transaction? at hx
  split at hx
  · cases hx
  · exact h.inMap_of_pending hx

/-- R10: the numbers of the slots in the map. -/
theorem number_data_cases (c : BusNumbers) {i : BitVec 3} (hi : i.toNat < 4) :
    (BusReg.data i).number c = c.regData0 ∨ (BusReg.data i).number c = c.regData0 + 1 ∨
      (BusReg.data i).number c = c.regData0 + 2 ∨ (BusReg.data i).number c = c.regData0 + 3 := by
  have hcases : i = 0 ∨ i = 1 ∨ i = 2 ∨ i = 3 := by bv_omega
  rcases hcases with rfl | rfl | rfl | rfl <;> simp [BusReg.number]

/-- A request in the map goes to one of the six registers. -/
theorem request_reg_cases (c : BusNumbers) {x : Transaction} (hx : x.inMap = true) :
    let q := x.request c
    q.reg = c.regPage ∨ q.reg = c.regAddr ∨ q.reg = c.regData0 ∨ q.reg = c.regData0 + 1 ∨ q.reg = c.regData0 + 2 ∨
      q.reg = c.regData0 + 3 := by
  match x with
  | .write .page _ => exact .inl rfl
  | .write .addr _ | .read .addr => exact .inr (.inl rfl)
  | .write (.data i) _ | .read (.data i) => exact .inr (.inr (number_data_cases c (of_decide_eq_true hx)))

theorem request_addr (c : BusNumbers) (x : Transaction) : (x.request c).addr = Config.pseudoAddr := by
  cases x <;> rfl

/-- R43: nothing is requested under `rst` or in IDLE. -/
theorem transaction?_eq_none (h : s.rstAsserted = true ∨ s.phase = .idle) : s.transaction? = none := by
  rcases h with hr | hp
  · simp [State.transaction?, hr]
  · simp [State.transaction?, State.pendingTransaction, hp]

/-- Settles O45: the invariant keeps SLOT_IDX below the slot count wherever a slot is asked for. -/
theorem onlyMappedRegistersAreRequested : Obligations.OnlyMappedRegistersAreRequested := by
  intro s c hinv
  refine ⟨fun x => hinv.inMap_of_transaction?, fun q hq => ?_,
    fun h => by simp [State.busRequest?, transaction?_eq_none h]⟩
  obtain ⟨x, hx, rfl⟩ := Option.map_eq_some_iff.1 hq
  exact ⟨request_addr c x, request_reg_cases c (hinv.inMap_of_transaction? hx)⟩

/-! ## The command port during an access -/

/-- The host's side changed: what stands at the command port, and the lines still to come. -/
def State.withHost (p : Port) (l : List HostLine) (s : State) : State :=
  { s with port := p, program := l }

/-- An operation that neither reads nor changes the host's side. -/
def IgnoresHost (k : State → State) : Prop :=
  ∀ p l s, k (s.withHost p l) = (k s).withHost p l

theorem busWrite_ignoresHost {r : BusReg} {v : BusWord} {k : State → State} (hk : IgnoresHost k) :
    IgnoresHost (busWrite r v k) := by
  intro p l s
  rcases he : s.env with _ | ⟨(x | e) | _ | _, rest⟩
  · rw [busWrite_nil he, busWrite_nil (by exact he)]
  · rw [busWrite_ok he, busWrite_ok (by exact he), ← hk]
    rfl
  · rw [busWrite_err he, busWrite_err (by exact he)]
    rfl
  · rw [busWrite_silent he, busWrite_silent (by exact he)]
    rfl
  · rw [busWrite_rst he, busWrite_rst (by exact he)]
    rfl

theorem busRead_ignoresHost {r : BusReg} {k : BusWord → State → State} (hk : ∀ v, IgnoresHost (k v)) :
    IgnoresHost (busRead r k) := by
  intro p l s
  rcases he : s.env with _ | ⟨(x | e) | _ | _, rest⟩
  · rw [busRead_nil he, busRead_nil (by exact he)]
  · rw [busRead_ok he, busRead_ok (by exact he), ← hk]
    rfl
  · rw [busRead_err he, busRead_err (by exact he)]
    rfl
  · rw [busRead_silent he, busRead_silent (by exact he)]
    rfl
  · rw [busRead_rst he, busRead_rst (by exact he)]
    rfl

theorem stageRow_ignoresHost : IgnoresHost stageRow := by
  intro p l s
  refine busWrite_ignoresHost (fun p l t => ?_) p l s
  rfl

theorem pageSelectWrite_ignoresHost (page : Page) : IgnoresHost (pageSelectWrite page) := by
  intro p l s
  refine busWrite_ignoresHost (fun p l t => ?_) p l s
  rfl

theorem selectRow_ignoresHost : IgnoresHost selectRow := by
  intro p l s
  cases hc : s.cacheHit s.lPage with
  | true =>
    rw [selectRow_hit hc, selectRow_hit (by exact hc)]
    rfl
  | false =>
    rw [selectRow_miss hc, selectRow_miss (by exact hc)]
    exact pageSelectWrite_ignoresHost s.lPage p l s

theorem addrWrite_ignoresHost (reg : LReg) (op : BusWord) : IgnoresHost (addrWrite reg op) := by
  intro p l s
  refine busWrite_ignoresHost (fun p l t => ?_) p l s
  rfl

theorem addrRow_ignoresHost : IgnoresHost addrRow :=
  fun p l s => addrWrite_ignoresHost s.lReg (opcodeOf s.lDir) p l s

theorem pollDone_ignoresHost : IgnoresHost pollDone := by
  intro p l s
  unfold pollDone
  rw [apply_ite (State.withHost p l)]
  rfl

theorem pollPending_ignoresHost : IgnoresHost pollPending := by
  intro p l s
  unfold pollPending
  rw [apply_ite (State.withHost p l)]
  rfl

theorem pollRow_ignoresHost : IgnoresHost pollRow := by
  intro p l s
  refine busRead_ignoresHost (fun v p l t => ?_) p l s
  cases pollComplete v with
  | true => exact pollDone_ignoresHost p l t
  | false => exact pollPending_ignoresHost p l t

theorem drainByte_ignoresHost : IgnoresHost drainByte := by
  intro p l s
  refine busRead_ignoresHost (fun v p l t => ?_) p l s
  rfl

theorem drainSlot_ignoresHost : IgnoresHost drainSlot := by
  intro p l s
  refine busRead_ignoresHost (fun v p l t => ?_) p l s
  dsimp only
  rw [apply_ite (State.withHost p l)]
  rfl

theorem drainRow_ignoresHost : IgnoresHost drainRow := by
  intro p l s
  unfold drainRow
  rw [apply_ite (State.withHost p l), ← drainByte_ignoresHost, ← drainSlot_ignoresHost]
  rfl

theorem sequencerRow_ignoresHost : IgnoresHost sequencerRow := by
  intro p l s
  have hphase {ph : Phase} (hp : s.phase = ph) : (s.withHost p l).phase = ph := hp
  cases hp : s.phase with
  | idle => rw [sequencerRow_idle hp, sequencerRow_idle (hphase hp)]
  | stage => rw [sequencerRow_stage hp, sequencerRow_stage (hphase hp), stageRow_ignoresHost]
  | select => rw [sequencerRow_select hp, sequencerRow_select (hphase hp), selectRow_ignoresHost]
  | addr => rw [sequencerRow_addr hp, sequencerRow_addr (hphase hp), addrRow_ignoresHost]
  | poll => rw [sequencerRow_poll hp, sequencerRow_poll (hphase hp), pollRow_ignoresHost]
  | drain => rw [sequencerRow_drain hp, sequencerRow_drain (hphase hp), drainRow_ignoresHost]

theorem step_rstAsserted (hr : s.rstAsserted = true) : step s = .next (takeReset s) :=
  step_reset (by simp [State.nextEvent, hr])

/-- Settles O52: in flight a step is reset or a row, and neither looks at the host's side (R93). -/
theorem hostInputsDoNotReachAnAccess : Obligations.HostInputsDoNotReachAnAccess := by
  intro s p l hp
  cases hr : s.rstAsserted with
  | true => exact ⟨takeReset s, step_rstAsserted hr, step_rstAsserted (by exact hr)⟩
  | false =>
    refine ⟨sequencerRow s, step_in_flight hr hp, ?_⟩
    exact (step_in_flight (s := s.withHost p l) hr hp).trans (congrArg _ (sequencerRow_ignoresHost p l s))

end Sys2Proof.Machine
end

section
/-!
RefDevice (95_test_vectors.md section 2) keeps the device contract (R78 to R82, R84) (O59).
-/
namespace Sys2Proof.Machine

/-! ## Words on the bus, and the values slots hold -/

@[simp] theorem pageSelectWord_enabled (p : Page) : (pageSelectWord p)[0] = true := by
  simp [pageSelectWord, Config.pageEnable]

/-- R112: bit 0 of an address word is the write opcode. -/
@[simp] theorem addrWord_writeBit (reg : LReg) (dir : Bool) : (addrWord reg (opcodeOf dir))[0] = dir := by
  cases dir <;> simp [addrWord, opcodeOf, Config.opRead, Config.opWrite]

/-- R111: bit 1 of an address word is the read opcode. -/
@[simp] theorem addrWord_readBit (reg : LReg) (dir : Bool) : (addrWord reg (opcodeOf dir))[1] = !dir := by
  cases dir <;> simp [addrWord, opcodeOf, Config.opRead, Config.opWrite]

theorem addrWord_and_opcode_ne_zero (reg : LReg) (dir : Bool) : addrWord reg (opcodeOf dir) &&& opcodeOf dir ≠ 0 := by
  intro h
  cases dir with
  | false =>
    have hbit : (addrWord reg (opcodeOf false) &&& opcodeOf false)[1] = true := by
      rw [BitVec.getElem_and, addrWord_readBit]
      rfl
    rw [h] at hbit
    cases hbit
  | true =>
    have hbit : (addrWord reg (opcodeOf true) &&& opcodeOf true)[0] = true := by
      rw [BitVec.getElem_and, addrWord_writeBit]
      rfl
    rw [h] at hbit
    cases hbit

/-- R80: a word with an opcode bit set reads as pending. -/
theorem pollComplete_eq_false {v : BusWord} {dir : Bool} (h : v &&& opcodeOf dir ≠ 0) : pollComplete v = false := by
  by_contra hc
  have hmask : v &&& Config.pendingMask = 0 := by simpa [pollComplete] using hc
  have hop : opcodeOf dir = Config.pendingMask &&& opcodeOf dir := by cases dir <;> decide
  rw [hop, ← BitVec.and_assoc, hmask] at h
  exact h BitVec.zero_and

theorem pollComplete_cleared (v : BusWord) : pollComplete (v &&& 0xFFFC) = true := by
  simp [pollComplete, Config.pendingMask, Config.opRead, Config.opWrite, BitVec.and_assoc]

/-- R82: a register's value depends on the slots of its width alone. -/
theorem slotsValue_congr {n : Width} {a b : BitVec 3 → BusWord} (h : ∀ k : BitVec 3, k.toNat < n.nslots → a k = b k) :
    slotsValue n a = slotsValue n b := by
  have h0 : a 0 = b 0 := h 0 (by cases n <;> decide)
  cases n with
  | w8 | w16 => simp only [slotsValue, h0]
  | w32 => simp only [slotsValue, h0, h 1 (by decide)]
  | w48 => simp only [slotsValue, h0, h 1 (by decide), h 2 (by decide)]
  | w64 => simp only [slotsValue, h0, h 1 (by decide), h 2 (by decide), h 3 (by decide)]

/-! ## RefDevice's operations -/

namespace RefDevice

variable {d : RefDevice} {reg : LReg} {dir : Bool}

theorem toDevice_op_idle (hb : d.busy = false) : d.toDevice.op = none := by
  simp [toDevice, hb]

theorem toDevice_op_busy (hb : d.busy = true) (haddr : d.addr = addrWord reg (opcodeOf dir)) :
    d.toDevice.op = some ⟨dir, d.page, reg⟩ := by
  simp [toDevice, hb, haddr, addrWord_fields]

/-- The slots after a read operation on a register of width `n` with value `v`. -/
def readSlots (d : RefDevice) (n : Width) (v : Value) (i : BitVec 3) : BusWord :=
  if i.toNat < n.nslots then
    if n = .w8 then d.junk ++ v.extractLsb' 0 8 else slotWord v i
  else d.slots i

theorem perform_read (haddr : d.addr = addrWord reg (opcodeOf false)) :
    d.perform = { d with slots := d.readSlots (d.width d.page reg) (d.regs d.page reg) } := by
  simp [perform, haddr, addrWord_fields, funext_iff, readSlots]

theorem perform_write (haddr : d.addr = addrWord reg (opcodeOf true)) :
    d.perform = { d with
      regs := fun p r => if p = d.page ∧ r = reg then slotsValue (d.width d.page reg) d.slots else d.regs p r } := by
  simp [perform, haddr, addrWord_fields]

/-- R82: a read leaves the register's value in the slots, JUNK above the low half of slot 0 apart. -/
theorem slotsValue_readSlots (d : RefDevice) (n : Width) (v : Value) :
    slotsValue n (d.readSlots n v) = slotsValue n (slotWord v) := by
  by_cases hn : n = .w8
  · subst hn
    have hlow : (d.junk ++ v.extractLsb' 0 8 : BusWord).extractLsb' 0 8 = (slotWord v 0).extractLsb' 0 8 := by
      ext k hk
      rw [BitVec.getElem_extractLsb', BitVec.getLsbD_append]
      simp [slotWord, hk, show k < 16 by omega]
    exact congrArg (BitVec.setWidth 64) hlow
  · exact slotsValue_congr fun k hk => by simp [readSlots, hk, hn]

/-- R81, R82: the operation RefDevice performs when its last pending poll is over. -/
theorem perform_performs (haddr : d.addr = addrWord reg (opcodeOf dir)) :
    d.toDevice.Performs d.width ⟨dir, d.page, reg⟩
      { d.perform with busy := false, addr := d.addr &&& 0xFFFC }.toDevice := by
  cases dir with
  | false =>
    rw [perform_read haddr]
    exact ⟨rfl, rfl, d.slotsValue_readSlots _ _⟩
  | true =>
    rw [perform_write haddr]
    exact ⟨rfl, rfl, if_pos ⟨rfl, rfl⟩⟩

/-- What RefDevice's address register holds: a complete word while idle, the trigger's word while busy. -/
structure Sound (d : RefDevice) : Prop where
  idle : d.busy = false → pollComplete d.addr = true
  busy : d.busy = true → ∃ reg dir, d.addr = addrWord reg (opcodeOf dir)

/-- R80: the address register while busy is a pending poll's answer. -/
theorem polled_pending (haddr : d.addr = addrWord reg (opcodeOf dir)) (p : Page) {x : Device} :
    x.Polled d.width ⟨dir, p, reg⟩ d.addr x := by
  have hop := addrWord_and_opcode_ne_zero reg dir
  rw [← haddr] at hop
  unfold Device.Polled
  rw [if_neg (by simp [pollComplete_eq_false hop])]
  exact ⟨hop, rfl⟩

theorem poll_idle (hb : d.busy = false) : d.poll = (d.addr, d) := by
  simp [poll, hb]

theorem poll_cases (hb : d.busy = true) :
    (∃ k, d.poll = (d.addr, { d with pend := k })) ∨
      d.poll = (d.addr &&& 0xFFFC, { d.perform with busy := false, addr := d.addr &&& 0xFFFC }) := by
  rcases hp : d.pend with _ | _ | k
  · exact .inl ⟨none, by cases d; simp_all [poll]⟩
  · exact .inr (by simp [poll, hb, hp])
  · exact .inl ⟨some k, by simp [poll, hb, hp]⟩

/-- R80, R81: a poll of RefDevice is one the contract allows. -/
theorem poll_reacts (h : d.Sound) : d.toDevice.Reacts d.width (.r .addr d.poll.1) d.poll.2.toDevice := by
  cases hb : d.busy with
  | false =>
    simpa [Device.Reacts, toDevice_op_idle hb, poll_idle hb] using h.idle hb
  | true =>
    obtain ⟨reg, dir, haddr⟩ := h.busy hb
    simp only [Device.Reacts, toDevice_op_busy hb haddr]
    rcases poll_cases hb with ⟨k, hpoll⟩ | hpoll <;> rw [hpoll]
    · exact polled_pending haddr d.page
    · unfold Device.Polled
      rw [if_pos (pollComplete_cleared _)]
      exact perform_performs haddr

theorem poll_sound (h : d.Sound) : d.poll.2.Sound := by
  cases hb : d.busy with
  | false => rw [poll_idle hb]; exact h
  | true =>
    rcases poll_cases hb with ⟨k, hpoll⟩ | hpoll <;> rw [hpoll]
    · exact ⟨h.idle, h.busy⟩
    · exact ⟨fun _ => pollComplete_cleared _, by simp⟩

/-- R78: a page-select word selects its page; RefDevice takes an operation in flight along. -/
theorem select_reacts (d : RefDevice) (w : BusWord) :
    d.toDevice.Reacts d.width (.w .page w) (d.serve (.write .page w)).2.toDevice := by
  rintro p rfl
  have hserve : (d.serve (.write .page (pageSelectWord p))).2 = { d with page := p } := by
    simp [serve, pageSelectWord_fields]
  rw [hserve]
  cases hb : d.busy <;> simp [Device.Selects, toDevice, hb]

/-- R79: the trigger puts an operation on the selected page in flight. -/
theorem trigger_reacts (d : RefDevice) (w : BusWord) :
    d.toDevice.Reacts d.width (.w .addr w) (d.serve (.write .addr w)).2.toDevice := by
  refine ⟨rfl, ?_⟩
  rintro - dir reg rfl
  simp [serve, toDevice, addrWord_fields]

theorem stage_reacts (d : RefDevice) (i : BitVec 3) (w : BusWord) :
    d.toDevice.Reacts d.width (.w (.data i) w) (d.serve (.write (.data i) w)).2.toDevice := by
  cases hb : d.busy <;> simp [Device.Reacts, Device.Stages, serve, toDevice, hb]

/-- A transaction that does not fail is one the contract allows. -/
theorem serve_reacts (h : d.Sound) (x : Transaction) :
    d.toDevice.Reacts d.width (x.event (.ok (d.serve x).1)) (d.serve x).2.toDevice := by
  match x with
  | .write .page w => exact d.select_reacts w
  | .write .addr w => exact d.trigger_reacts w
  | .write (.data i) w => exact d.stage_reacts i w
  | .read .page => exact rfl
  | .read .addr => exact poll_reacts h
  | .read (.data i) => exact ⟨rfl, fun _ => rfl⟩

theorem serve_sound (h : d.Sound) {x : Transaction}
    (hx : ∀ v, x = .write .addr v → ∃ reg dir, v = addrWord reg (opcodeOf dir)) : (d.serve x).2.Sound := by
  match x with
  | .write .page w =>
    unfold serve
    dsimp only
    split <;> exact ⟨h.idle, h.busy⟩
  | .write .addr w => exact ⟨nofun, fun _ => hx w rfl⟩
  | .write (.data _) _ | .read .page | .read (.data _) => exact ⟨h.idle, h.busy⟩
  | .read .addr => exact poll_sound h

/-- A failed transaction leaves RefDevice's page, and the contract asks no more. -/
theorem failed_reacts (d : RefDevice) (x : Transaction) (e : ErrT) (n : Nat) :
    d.toDevice.Reacts d.width (x.event (.err e)) { d with count := n }.toDevice := by
  match x with
  | .write .page _ => exact trivial
  | .write .addr _ | .write (.data _) _ | .read _ => exact rfl

end RefDevice

/-- Settles O59: a transaction of RefDevice fails and changes nothing, or is served as the contract allows. -/
theorem refDeviceKeepsTheContract : Obligations.RefDeviceKeepsTheContract := by
  intro d x hidle hbusy hx
  have h : d.Sound := ⟨hidle, hbusy⟩
  cases hfail : d.fails.contains d.count with
  | true =>
    have hans : d.answer x = (.err d.err, { d with count := d.count + 1 }) := if_pos hfail
    rw [hans]
    exact ⟨d.failed_reacts x d.err _, h.idle, h.busy⟩
  | false =>
    have hans : d.answer x = (.ok (d.serve x).1, { (d.serve x).2 with count := d.count + 1 }) :=
      if_neg (Bool.eq_false_iff.1 hfail)
    have hsound := RefDevice.serve_sound h hx
    rw [hans]
    exact ⟨RefDevice.serve_reacts h x, hsound.idle, hsound.busy⟩

end Sys2Proof.Machine
end

section
/-!
A write and then a read on a device that keeps the contract (R78 to R82): what each part of the two traces leaves of the device,
and that the read's slots hold the written value (R84) (O58).
-/
namespace Sys2Proof.Machine

variable {f : CmdFields} {s t : State} {d d' : Device} {width : Page → LReg → Width}

/-! ## Commands by width and direction -/

/-- The CMD32 fields of a command by its width (R103, R104). -/
def widthFields (n : Width) (dir : Bool) (page : Page) (reg : LReg) : CmdFields :=
  ⟨0, dir, n == .w8, BitVec.ofNat 2 (n.nslots - 1), page, reg⟩

theorem fields?_read (n : Width) (page : Page) (reg : LReg) :
    (n.read page reg).fields? = some (widthFields n false page reg) := by
  cases n <;> rfl

theorem fields?_write (n : Width) (page : Page) (reg : LReg) :
    (n.write page reg).fields? = some (widthFields n true page reg) := by
  cases n <;> rfl

theorem widthFields_nslot (n : Width) (dir : Bool) (page : Page) (reg : LReg) :
    (widthFields n dir page reg).nslot.toNat + 1 = n.nslots := by
  cases n <;> rfl

theorem stagedSlots_write (n : Width) (page : Page) (reg : LReg) : stagedSlots (widthFields n true page reg) = n.nslots :=
  widthFields_nslot n true page reg

/-- The only way for an access to finish with OK. -/
theorem Ending.endsOk (h : Ending f s t) (hf : t.finished = true) (hs : t.status = .ok) :
    ∃ pend v words, EndsOk f s t pend v words := by
  obtain ⟨-, hdone⟩ : t.phase = .idle ∧ t.done = true := by simpa [State.finished] using hf
  cases h with
  | stands site h => simp [h.done] at hdone
  | ok pend v words h => exact ⟨pend, v, words, h⟩
  | transport site e h => simp [h.status] at hs
  | timeout pend h => simp [h.status] at hs
  | reset site h => simp [h.done] at hdone

/-- A command that finished with OK ended so, whatever its environment. -/
theorem endsOk_of_exec {i : Instr} (hi : i.fields? = some f) (hready : s.cmdReady = true) (hexec : exec i s = .next t)
    (hf : t.finished = true) (hs : t.status = .ok) : ∃ pend v words, EndsOk f s t pend v words := by
  obtain ⟨t', hexec', hend⟩ := exec_endings hi hready
  cases hexec.symm.trans hexec'
  exact hend.endsOk hf hs

/-! ## The device along the parts of a trace -/

theorem follows_append {a b : List BusEvent} :
    d.Follows width (a ++ b) d' ↔ ∃ x, d.Follows width a x ∧ x.Follows width b d' := by
  induction a generalizing d with
  | nil => simp [Device.Follows]
  | cons e a ih =>
    simp only [List.cons_append, Device.Follows, ih]
    constructor
    · rintro ⟨y, he, x, ha, hb⟩
      exact ⟨x, ⟨y, he, ha⟩, hb⟩
    · rintro ⟨x, ⟨y, he, ha⟩, hb⟩
      exact ⟨y, he, x, ha, hb⟩

theorem follows_singleton {e : BusEvent} : d.Follows width [e] d' ↔ d.Reacts width e d' := by
  simp [Device.Follows]

/-- R114: staging writes on an idle device change its slots alone, and each slot below holds its word of the value. -/
theorem follows_staged {v : Value} (hop : d.op = none) {n : Nat} (h : d.Follows width (stagedTrace v n) d') :
    ∃ slots, d' = { d with slots := slots } ∧ ∀ k : BitVec 3, k.toNat < n → slots k = slotWord v k := by
  induction n generalizing d' with
  | zero => exact ⟨d.slots, h, nofun⟩
  | succ n ih =>
    rw [stagedTrace_succ, follows_append] at h
    obtain ⟨x, hstaged, hlast⟩ := h
    obtain ⟨slots, rfl, hslots⟩ := ih hstaged
    have hstage := follows_singleton.1 hlast
    simp only [Device.Reacts, Device.Stages, hop] at hstage
    refine ⟨_, hstage.trans (by rw [hop]), fun k hk => ?_⟩
    by_cases hkn : k = BitVec.ofNat 3 n
    · simp [hkn]
    · have hne : k.toNat ≠ n := fun hkn' => hkn (by rw [← hkn', BitVec.ofNat_toNat, BitVec.setWidth_eq])
      simpa [hkn] using hslots k (by omega)

/-- R78, R131: after the page select an idle device has the access's page selected, hit or miss. -/
theorem follows_select {p : Page} (hop : d.op = none) (hpage : s.cache.valid = true → d.page = s.cache.page)
    (h : d.Follows width (s.selectTrace p) d') : d' = { d with page := p } := by
  unfold State.selectTrace at h
  split at h
  case isTrue hit =>
    obtain rfl : d.page = p := by simpa [hit] using hpage
    exact h
  case isFalse =>
    have hselect := follows_singleton.1 h p rfl
    simpa only [Device.Selects, hop] using hselect

/-- R80: pending polls leave a busy device as it is. -/
theorem follows_pending {o : DeviceOp} (hop : d.op = some o) {pend : List BusWord}
    (hpend : ∀ w ∈ pend, pollComplete w = false) (h : d.Follows width (pend.map (.r .addr)) d') : d' = d := by
  induction pend with
  | nil => exact h
  | cons w pend ih =>
    obtain ⟨x, hpoll, hrest⟩ := h
    obtain ⟨-, rfl⟩ : w &&& opcodeOf o.dir ≠ 0 ∧ x = d := by
      simpa [Device.Reacts, Device.Polled, hop, hpend w (by simp)] using hpoll
    exact ih (fun u hu => hpend u (by simp [hu])) hrest

/-- R79 to R81: on an idle device whose selected page is the cached one, a run_op that succeeds performs its operation. -/
theorem follows_runOp {p : Page} {reg : LReg} {dir : Bool} {pend : List BusWord} {v : BusWord} (hop : d.op = none)
    (hpage : s.cache.valid = true → d.page = s.cache.page) (hc : CompletesAfter pend v)
    (h : d.Follows width (s.runOpTrace p reg (opcodeOf dir) pend v) d') :
    Device.Performs width { d with page := p, op := some ⟨dir, p, reg⟩ } ⟨dir, p, reg⟩ d' := by
  obtain ⟨-, hpend, hv⟩ := hc
  simp only [State.runOpTrace, follows_append, follows_singleton] at h
  obtain ⟨x₃, ⟨x₂, ⟨x₁, hselect, -, htrigger⟩, hpolls⟩, hdone⟩ := h
  obtain rfl := follows_select hop hpage hselect
  obtain rfl := htrigger hop dir reg rfl
  obtain rfl := follows_pending rfl hpend hpolls
  simpa [Device.Reacts, Device.Polled, hv] using hdone

/-- R82: slot reads of an idle device return its slots, and leave it as it is. -/
theorem follows_drained (hop : d.op = none) {words : List BusWord} (h : d.Follows width (drainedTrace words) d') :
    d' = d ∧ words = (List.range words.length).map fun k => d.slots (BitVec.ofNat 3 k) := by
  induction words using List.reverseRecOn generalizing d' with
  | nil => exact ⟨h, rfl⟩
  | append_singleton words w ih =>
    rw [drainedTrace_append, follows_append] at h
    obtain ⟨x, hread, hlast⟩ := h
    obtain ⟨rfl, hwords⟩ := ih hread
    obtain ⟨rfl, hw⟩ := follows_singleton.1 hlast
    refine ⟨rfl, ?_⟩
    rw [List.length_append, List.length_singleton, List.range_succ, List.map_append, ← hwords, hw hop]
    rfl

/-! ## Values through the slots -/

/-- R161, R163: what a read assembles from a device's slots is the value they hold. -/
theorem assembled_slots (n : Width) (slots : BitVec 3 → BusWord) :
    let words := (List.range n.nslots).map fun k => slots (BitVec.ofNat 3 k)
    (if n == .w8 then byteOfSlot (words.headD 0) else assembled words) = slotsValue n slots := by
  cases n with
  | w8 => rfl
  | w16 => exact placeSlot_one _
  | w32 => exact placeSlot_two _ _
  | w48 => exact placeSlot_three _ _ _
  | w64 => exact placeSlot_four _ _ _ _

/-- R82: the slot words of a value hold its low bits. -/
theorem slotsValue_slotWord (n : Width) (v : Value) : slotsValue n (slotWord v) = (v.setWidth n.bits).setWidth 64 := by
  have hbits : v.setWidth n.bits = v.extractLsb' 0 n.bits := BitVec.setWidth_eq_extractLsb' (by cases n <;> decide)
  have hjoin (i m k : Nat) : v.extractLsb' (i + k) m ++ v.extractLsb' i k = v.extractLsb' i (m + k) :=
    BitVec.extractLsb'_append_extractLsb'_eq_extractLsb' rfl
  rw [hbits, funext (slotWord_eq_extract v)]
  cases n with
  | w8 =>
    refine congrArg (BitVec.setWidth 64) ?_
    ext k hk
    simp [Width.bits]
  | w16 => rfl
  | w32 => exact congrArg (BitVec.setWidth 64) (hjoin 0 16 16)
  | w48 =>
    have hhigh : v.extractLsb' 32 16 ++ v.extractLsb' 16 16 = v.extractLsb' 16 32 := hjoin 16 16 16
    exact congrArg (BitVec.setWidth 64) ((congrArg (· ++ v.extractLsb' 0 16) hhigh).trans (hjoin 0 32 16))
  | w64 =>
    have hhigh : v.extractLsb' 48 16 ++ v.extractLsb' 32 16 ++ v.extractLsb' 16 16 = v.extractLsb' 16 48 :=
      (congrArg (· ++ v.extractLsb' 16 16) (hjoin 32 16 16)).trans (hjoin 16 32 16)
    have hall := (congrArg (· ++ v.extractLsb' 0 16) hhigh).trans (hjoin 0 48 16)
    exact hall.trans (BitVec.setWidth_eq _).symm

/-! ## The two accesses at the device -/

/-- R79, R82: a write that finished with OK leaves the device idle on its page, the register holding what was staged. -/
theorem EndsOk.write_at_device {n : Width} {page : Page} {reg : LReg} {pend : List BusWord} {v : BusWord}
    {words : List BusWord} (h : EndsOk (widthFields n true page reg) s t pend v words) (hop : d.op = none)
    (hpage : s.cache.valid = true → d.page = s.cache.page) (hn : width page reg = n)
    (hf : d.Follows width (Site.trace (widthFields n true page reg) s (.drain pend v words)) d') :
    d'.op = none ∧ d'.page = page ∧ d'.regs page reg = slotsValue n (slotWord s.port.wdata) := by
  obtain rfl : words = [] := List.length_eq_zero_iff.1 h.count
  have htrace : Site.trace (widthFields n true page reg) s (.drain pend v []) =
      stagedTrace s.port.wdata n.nslots ++ s.runOpTrace page reg (opcodeOf true) pend v := by
    rw [Site.trace, stagedSlots_write]
    simp [State.runOpTrace, widthFields]
  rw [htrace, follows_append] at hf
  obtain ⟨x, hstaged, hrun⟩ := hf
  obtain ⟨slots, rfl, hslots⟩ := follows_staged hop hstaged
  obtain ⟨hp, ho, hregs⟩ := follows_runOp (d := { d with slots := slots }) hop hpage h.completes hrun
  refine ⟨ho, hp, ?_⟩
  calc d'.regs page reg = slotsValue (width page reg) slots := hregs
    _ = slotsValue n (slotWord s.port.wdata) := by rw [hn, slotsValue_congr hslots]

/-- R81, R82: a read that finished with OK on an idle device returns the register's value. -/
theorem EndsOk.read_at_device {n : Width} {page : Page} {reg : LReg} {pend : List BusWord} {v : BusWord}
    {words : List BusWord} (h : EndsOk (widthFields n false page reg) s t pend v words) (hop : d.op = none)
    (hpage : s.cache.valid = true → d.page = s.cache.page) (hn : width page reg = n)
    (hf : d.Follows width (Site.trace (widthFields n false page reg) s (.drain pend v words)) d') :
    t.rdata = slotsValue n (slotWord (d.regs page reg)) := by
  have hcount : words.length = n.nslots := h.count.trans (widthFields_nslot n false page reg)
  have htrace : Site.trace (widthFields n false page reg) s (.drain pend v words) =
      s.runOpTrace page reg (opcodeOf false) pend v ++ drainedTrace words := by
    simp [Site.trace, State.runOpTrace, stagedSlots, widthFields]
  rw [htrace, follows_append] at hf
  obtain ⟨x, hrun, hdrain⟩ := hf
  obtain ⟨-, ho, hslots⟩ := follows_runOp hop hpage h.completes hrun
  obtain ⟨-, hwords⟩ := follows_drained ho hdrain
  rw [hcount] at hwords
  calc t.rdata = if n == .w8 then byteOfSlot (words.headD 0) else assembled words := h.rdata rfl
    _ = slotsValue n x.slots := by rw [hwords]; exact assembled_slots n x.slots
    _ = slotsValue n (slotWord (d.regs page reg)) := by
      rw [← hn]
      exact hslots

/-- Settles O58: the write leaves the value's low bits in the register of an idle device on the cached page, and the read
returns them. -/
theorem writeThenReadReturnsTheValue : Obligations.WriteThenReadReturnsTheValue := by
  intro n width page reg s t u first second d₀ d₁ d₂ hs hwrite htf hts hfirst ht hread huf hus hsecond hop hpage hn
    hf₁ hf₂
  obtain ⟨_, _, _, hw⟩ := endsOk_of_exec (fields?_write n page reg) hs hwrite htf hts
  obtain ⟨_, _, _, hr⟩ := endsOk_of_exec (fields?_read n page reg) ht hread huf hus
  obtain rfl := List.append_cancel_left (hfirst.symm.trans hw.trace)
  obtain rfl := List.append_cancel_left (hsecond.symm.trans hr.trace)
  obtain ⟨hop₁, hpage₁, hreg⟩ := hw.write_at_device hop hpage hn hf₁
  rw [hr.read_at_device hop₁ (fun _ => by rw [hpage₁, hw.cache]; rfl) hn hf₂, hreg, slotsValue_slotWord,
    slotsValue_slotWord]
  cases n <;> simp [Width.bits]

end Sys2Proof.Machine
end

section
/-!
Decoding and encoding are inverse: the fields of R101 determine a command word and its command, the two bytes of a bus word
(R110 to R112) its row and operand (O1, O2, O5). With them what R106 says of a command word (O4).
-/
namespace Sys2Proof

open Machine
open Laws.TableMatch (inRow commandWord_inRow)

/-! ## Words by their fields -/

/-- Words that agree on a range of bits agree on each bit of it. -/
theorem getLsbD_eq_of_extractLsb'_eq {n a len k : Nat} {x y : BitVec n} (h : x.extractLsb' a len = y.extractLsb' a len)
    (hle : a ≤ k) (hlt : k < a + len) : x.getLsbD k = y.getLsbD k := by
  have hbit := congrArg (·.getLsbD (k - a)) h
  simpa [show k - a < len by omega, Nat.add_sub_cancel' hle] using hbit

/-- R101: the six fields cover the command word. -/
theorem CmdFields.ofWord_injective : Function.Injective CmdFields.ofWord := by
  intro v w h
  obtain ⟨hzero, hdir, hbyte, hnslot, hpage, hreg⟩ := CmdFields.mk.inj h
  apply BitVec.eq_of_getLsbD_eq
  intro k hk
  by_cases h8 : k < 8
  · exact getLsbD_eq_of_extractLsb'_eq hreg (Nat.zero_le k) h8
  by_cases h16 : k < 16
  · exact getLsbD_eq_of_extractLsb'_eq hpage (by omega) h16
  by_cases h18 : k < 18
  · exact getLsbD_eq_of_extractLsb'_eq hnslot (by omega) h18
  by_cases h20 : 20 ≤ k
  · exact getLsbD_eq_of_extractLsb'_eq hzero h20 hk
  · obtain rfl | rfl : k = 18 ∨ k = 19 := by omega
    · exact hbyte
    · exact hdir

/-- The two bytes cover a bus word. -/
theorem busWord_ext {v w : BusWord} (hhigh : v.extractLsb' 8 8 = w.extractLsb' 8 8)
    (hlow : v.extractLsb' 0 8 = w.extractLsb' 0 8) : v = w := by
  apply BitVec.eq_of_getLsbD_eq
  intro k hk
  by_cases h8 : k < 8
  · exact getLsbD_eq_of_extractLsb'_eq hlow (Nat.zero_le k) h8
  · exact getLsbD_eq_of_extractLsb'_eq hhigh (by omega) hk

/-- The fields of a word in a row of R103: the row's own, with PAGE and REG. -/
theorem ofWord_of_inRow {w m : CmdWord} {p : Page} {r : LReg} (h : inRow w m p r) :
    CmdFields.ofWord w = { CmdFields.ofWord m with page := p, reg := r } := by
  obtain ⟨rfl, rfl, rfl⟩ := h
  simp only [CmdFields.ofWord, BitVec.extractLsb'_and, BitVec.getLsbD_and]
  congr
  · exact BitVec.and_allOnes.symm
  · exact (Bool.and_true _).symm
  · exact (Bool.and_true _).symm
  · exact BitVec.and_allOnes.symm

/-! ## Commands by their fields (R103) -/

theorem CmdFields.legal_iff (f : CmdFields) : f.legal = true ↔ f.zero = 0#12 ∧ (f.byte = true → f.nslot = 0#2) := by
  cases hb : f.byte <;> simp [CmdFields.legal, hb]

theorem CmdFields.fields?_command {f : CmdFields} (hlegal : f.legal = true) : f.command.fields? = some f := by
  obtain ⟨hzero, hnslot⟩ := f.legal_iff.1 hlegal
  obtain ⟨zero, dir, byte, nslot, page, reg⟩ := f
  obtain rfl : zero = 0 := hzero
  cases byte with
  | true =>
    obtain rfl : nslot = 0 := hnslot rfl
    cases dir <;> rfl
  | false =>
    have hslots : nslot = 0 ∨ nslot = 1 ∨ nslot = 2 ∨ nslot = 3 := by
      clear hlegal hnslot
      revert nslot
      decide
    rcases hslots with rfl | rfl | rfl | rfl <;> cases dir <;> rfl

theorem command_of_fields? {i : Instr} {f : CmdFields} (h : i.fields? = some f) : f.command = i := by
  cases i <;> cases h <;> rfl

theorem isCommand_of_fields? {i : Instr} {f : CmdFields} (h : i.fields? = some f) : i.isCommand = true := by
  cases i <;> cases h <;> rfl

theorem decodeCommand_legal {w : CmdWord} (h : (CmdFields.ofWord w).legal = true) :
    decodeCommand w = .ok (CmdFields.ofWord w).command := by
  obtain ⟨hzero, hnslot⟩ := (CmdFields.legal_iff _).1 h
  simp only [decodeCommand]
  rw [if_neg (not_not.2 hzero), if_neg fun hb => hb.2 (hnslot hb.1)]

theorem decodeCommand_illegal {w : CmdWord} (h : (CmdFields.ofWord w).legal = false) : ∃ x, decodeCommand w = .error x := by
  simp only [decodeCommand]
  split_ifs with hzero hbyte
  · exact ⟨_, rfl⟩
  · exact ⟨_, rfl⟩
  · have hlegal := (CmdFields.legal_iff (.ofWord w)).2
      ⟨not_not.1 hzero, fun hb => not_not.1 fun hn => hbyte ⟨hb, hn⟩⟩
    cases h.symm.trans hlegal

/-- R103, R106: a word decodes to the command that has its fields. -/
theorem decodeCommand_eq_ok_iff {w : CmdWord} {i : Instr} :
    decodeCommand w = .ok i ↔ i.fields? = some (CmdFields.ofWord w) := by
  constructor
  · intro h
    cases hlegal : (CmdFields.ofWord w).legal with
    | false =>
      obtain ⟨x, hx⟩ := decodeCommand_illegal hlegal
      cases hx.symm.trans h
    | true =>
      cases (decodeCommand_legal hlegal).symm.trans h
      exact CmdFields.fields?_command hlegal
  · intro h
    rw [decodeCommand_legal (legal_of_fields h), command_of_fields? h]

/-- R103: the fields of a command's word are the command's. -/
theorem fields?_of_encode {i : Instr} {w : CmdWord} (h : encode i = .cmd32 w) :
    i.fields? = some (CmdFields.ofWord w) := by
  cases i with
  | busPageSelect | busAddrRead | busAddrWrite => cases h
  | _ p r =>
    cases h
    rw [ofWord_of_inRow (commandWord_inRow _ p r ?_)]
    · rfl
    · decide

theorem encode_of_fields? {i : Instr} {w : CmdWord} (h : i.fields? = some (CmdFields.ofWord w)) :
    encode i = .cmd32 w := by
  obtain ⟨v, hv⟩ : ∃ v, encode i = .cmd32 v := by
    cases i with
    | busPageSelect | busAddrRead | busAddrWrite => cases h
    | _ => exact ⟨_, rfl⟩
  have hfields := Option.some.inj ((fields?_of_encode hv).symm.trans h)
  rw [hv, CmdFields.ofWord_injective hfields]

/-! ## Bus words by their bytes (R110 to R112) -/

theorem encode_busPageSelect (p : Page) : encode (.busPageSelect p) = .bus16 .page (pageSelectWord p) :=
  rfl

theorem encode_busAddrRead (r : LReg) : encode (.busAddrRead r) = .bus16 .addr (addrWord r (opcodeOf false)) :=
  rfl

theorem encode_busAddrWrite (r : LReg) : encode (.busAddrWrite r) = .bus16 .addr (addrWord r (opcodeOf true)) :=
  rfl

/-- R110: a word with the enable byte is the page-select word of its high byte. -/
theorem pageSelectWord_eq {w : BusWord} (h : w.extractLsb' 0 8 = 0x01#8) : pageSelectWord (w.extractLsb' 8 8) = w := by
  obtain ⟨hpage, hlow⟩ := pageSelectWord_fields (w.extractLsb' 8 8)
  exact busWord_ext hpage (hlow.trans h.symm)

/-- R111, R112: a word with an opcode's byte is the address word of its high byte and that opcode. -/
theorem addrWord_eq {w : BusWord} {dir : Bool} (h : w.extractLsb' 0 8 = if dir then 0x01#8 else 0x02#8) :
    addrWord (w.extractLsb' 8 8) (opcodeOf dir) = w := by
  obtain ⟨hreg, hlow⟩ := addrWord_fields (w.extractLsb' 8 8) dir
  exact busWord_ext hreg (hlow.trans h.symm)

theorem decodeBus_of_encode {i : Instr} {q : BusReg} {w : BusWord} (h : encode i = .bus16 q w) :
    decodeBus q w = .ok i := by
  cases i with
  | busPageSelect p =>
    cases (encode_busPageSelect p).symm.trans h
    simp [decodeBus, pageSelectWord_fields]
  | busAddrRead r =>
    cases (encode_busAddrRead r).symm.trans h
    simp [decodeBus, addrWord_fields]
  | busAddrWrite r =>
    cases (encode_busAddrWrite r).symm.trans h
    simp [decodeBus, addrWord_fields]
  | _ => cases h

theorem encode_of_decodeBus {i : Instr} {q : BusReg} {w : BusWord} (h : decodeBus q w = .ok i) :
    encode i = .bus16 q w := by
  cases q with
  | page =>
    simp only [decodeBus] at h
    split_ifs at h with hlow
    cases h
    rw [encode_busPageSelect, pageSelectWord_eq hlow]
  | addr =>
    simp only [decodeBus] at h
    split_ifs at h with hread hwrite
    · cases h
      rw [encode_busAddrRead, addrWord_eq (dir := false) hread]
    · cases h
      rw [encode_busAddrWrite, addrWord_eq (dir := true) hwrite]
  | data i => cases h

/-! ## Both formats -/

/-- The decoder reads an instruction from its encoding and from no other word. -/
theorem decode_eq_ok_iff {c : CodeWord} {i : Instr} : decode c = .ok i ↔ encode i = c := by
  cases c with
  | cmd32 w => exact decodeCommand_eq_ok_iff.trans ⟨encode_of_fields?, fields?_of_encode⟩
  | bus16 q w => exact ⟨encode_of_decodeBus, decodeBus_of_encode⟩

theorem Instr.wf_eq_true (i : Instr) : i.wf = true := by
  unfold Instr.wf
  split
  · exact legal_of_fields ‹_›
  · rfl

/-- Settles O1: the decoder reads every instruction from its encoding, and the fields it is encoded with are legal. -/
theorem encodedInstructionDecodesToItself : Obligations.EncodedInstructionDecodesToItself :=
  fun i => ⟨i.wf_eq_true, decode_eq_ok_iff.2 rfl⟩

/-- Settles O2: the decoder reads an instruction from no word but its encoding. -/
theorem decodedWordIsTheEncoding : Obligations.DecodedWordIsTheEncoding :=
  fun _ _ => decode_eq_ok_iff.1

/-- A bus word's low bits by its low byte. -/
theorem extractLsb'_of_low {w : BusWord} {b : BitVec 8} (h : w.extractLsb' 0 8 = b) {start len : Nat}
    (hle : start + len ≤ 8) : w.extractLsb' start len = b.extractLsb' start len := by
  rw [← h, BitVec.extractLsb'_extractLsb'_of_le hle]

theorem getLsbD_of_low {w : BusWord} {b : BitVec 8} (h : w.extractLsb' 0 8 = b) {k : Nat} (hk : k < 8) :
    w.getLsbD k = b.getLsbD k := by
  rw [← h, BitVec.getLsbD_extractLsb', Nat.zero_add, decide_eq_true hk, Bool.true_and]

/-- Settles O5: the words' low bytes are 0x01, 0x02 and 0x01 (R110, R111, R112). -/
theorem busWordFieldsAsTabled : Obligations.BusWordFieldsAsTabled := by
  intro a
  obtain ⟨hpage, hselect⟩ := pageSelectWord_fields a
  obtain ⟨hreg, hread⟩ := addrWord_fields a false
  obtain ⟨hreg', hwrite⟩ := addrWord_fields a true
  exact ⟨⟨rfl, hpage, extractLsb'_of_low hselect (by decide), getLsbD_of_low hselect (by decide)⟩,
    ⟨rfl, hreg, extractLsb'_of_low hread (by decide), getLsbD_of_low hread (by decide),
      getLsbD_of_low hread (by decide)⟩,
    ⟨rfl, hreg', extractLsb'_of_low hwrite (by decide), getLsbD_of_low hwrite (by decide),
      getLsbD_of_low hwrite (by decide)⟩⟩

/-! ## Illegal command words (R106) -/

theorem ofWord_legal_iff (w : CmdWord) : (CmdFields.ofWord w).legal = true ↔
    ¬ (w.extractLsb' 20 12 ≠ 0#12 ∨ (w.getLsbD 18 = true ∧ w.extractLsb' 16 2 ≠ 0#2)) := by
  rw [CmdFields.legal_iff, not_or, not_not, not_and, not_not]
  rfl

/-- R224: what accepting an illegal word leaves, and the host's next line at the port. -/
theorem acceptIllegal_finishes (w : CmdWord) (s : State) :
    State.finishedFrom s (acceptIllegal w s) (.ofWord w) .illegal ∧ (acceptIllegal w s).trace = s.trace ∧
      (acceptIllegal w s).cache = s.cache ∧ (acceptIllegal w s).env = s.env := by
  simp [State.finishedFrom, State.holds, acceptIllegal, ErrorKind.status]

theorem step_illegalWord {s : State} (hready : s.cmdReady = true) (hvalid : s.port.valid = true)
    (hill : (CmdFields.ofWord s.port.cmd).legal = false) : step s = .next (acceptIllegal s.port.cmd s) := by
  obtain ⟨hidle, hrst⟩ := (cmdReady_iff s).1 hready
  obtain ⟨x, hx⟩ := decodeCommand_illegal hill
  exact step_illegal (by simp [State.nextEvent, hrst, hidle, State.atPort, hvalid, decode, hx])

/-- Settles O4: legal fields name a command, and the step of any other word is the accept of an illegal one. -/
theorem illegalWordFinishesAtOnce : Obligations.IllegalWordFinishesAtOnce := by
  intro w
  split_ifs with hill
  · rintro s hready hvalid rfl
    have hlegal : (CmdFields.ofWord s.port.cmd).legal = false :=
      Bool.eq_false_iff.2 fun h => (ofWord_legal_iff _).1 h hill
    obtain ⟨⟨hphase, hdone, hstatus, hholds, hport, hprogram⟩, htrace, hcache, henv⟩ :=
      acceptIllegal_finishes s.port.cmd s
    exact ⟨_, step_illegalWord hready hvalid hlegal, hstatus, hdone, hphase, htrace, hcache, henv, hholds, hport,
      hprogram⟩
  · have hlegal := (ofWord_legal_iff w).2 hill
    exact ⟨_, decodeCommand_legal hlegal, isCommand_of_fields? (CmdFields.fields?_command hlegal)⟩

end Sys2Proof
end

section
/-!
The words a step writes to PAGE and ADDR have the forms of R110 to R112 (R113) (O43).
-/
namespace Sys2Proof.Machine

variable {s t u : State}

/-- R113: from `s` to `t` the trace only grew, by transactions whose words have the tabled forms. -/
def AppendsTabled (s t : State) : Prop :=
  ∃ new, t.trace = s.trace ++ new ∧ ∀ e ∈ new, e.wordWellFormed = true

theorem AppendsTabled.of_eq (ht : t.trace = s.trace) : AppendsTabled s t :=
  ⟨[], by simp [ht], by simp⟩

theorem AppendsTabled.of_event {e : BusEvent} (ht : t.trace = s.trace ++ [e]) (he : e.wordWellFormed = true) :
    AppendsTabled s t :=
  ⟨[e], ht, by simpa using he⟩

theorem AppendsTabled.trans (hst : AppendsTabled s t) (htu : AppendsTabled t u) : AppendsTabled s u := by
  obtain ⟨new, ht, hnew⟩ := hst
  obtain ⟨new', hu, hnew'⟩ := htu
  exact ⟨new ++ new', by rw [hu, ht, List.append_assoc], List.forall_mem_append.2 ⟨hnew, hnew'⟩⟩

theorem resetRegisters_appendsTabled (s : State) : AppendsTabled s (resetRegisters s) :=
  .of_event (e := .rst) rfl rfl

/-- The form of a written word does not depend on the answer. -/
theorem wordWellFormed_wErr (r : BusReg) (v : BusWord) (e : ErrT) :
    (BusEvent.wErr r v e).wordWellFormed = (BusEvent.w r v).wordWellFormed := by
  cases r <;> rfl

/-- A bus write of a word of a tabled form, whose continuation adds nothing to the trace. -/
theorem busWrite_appendsTabled {r : BusReg} {v : BusWord} {k : State → State} (s : State)
    (hv : (BusEvent.w r v).wordWellFormed = true) (hk : ∀ x, (k x).trace = x.trace) :
    AppendsTabled s (busWrite r v k s) := by
  rcases busWrite_cases r v k s with
    ⟨-, hb⟩ | ⟨rest, -, hb⟩ | ⟨rest, -, hb⟩ | ⟨x, rest, -, hb⟩ | ⟨e, rest, -, hb⟩ <;> rw [hb]
  · exact .of_eq rfl
  · exact .of_eq rfl
  · exact resetRegisters_appendsTabled _
  · exact .of_event (hk _) hv
  · exact .of_event rfl ((wordWellFormed_wErr r v e).trans hv)

/-- A bus read whose continuation adds nothing to the trace. -/
theorem busRead_appendsTabled {r : BusReg} {k : BusWord → State → State} (s : State)
    (hk : ∀ v x, (k v x).trace = x.trace) : AppendsTabled s (busRead r k s) := by
  rcases busRead_cases r k s with
    ⟨-, hb⟩ | ⟨rest, -, hb⟩ | ⟨rest, -, hb⟩ | ⟨x, rest, -, hb⟩ | ⟨e, rest, -, hb⟩ <;> rw [hb]
  · exact .of_eq rfl
  · exact .of_eq rfl
  · exact resetRegisters_appendsTabled _
  · exact .of_event (e := .r r x) (hk x _) rfl
  · exact .of_event (e := .rErr r e) rfl rfl

/-! ## The words of PAGE and ADDR -/

theorem wordWellFormed_pageSelect (p : Page) : (BusEvent.w .page (pageSelectWord p)).wordWellFormed = true := by
  simp [BusEvent.wordWellFormed, pageSelectWord_fields]

theorem wordWellFormed_addrWord (reg : LReg) (dir : Bool) :
    (BusEvent.w .addr (addrWord reg (opcodeOf dir))).wordWellFormed = true := by
  cases dir <;> simp [BusEvent.wordWellFormed, addrWord_fields]

/-! ## Rows, accesses and steps -/

@[simp] theorem pollDone_trace (s : State) : (pollDone s).trace = s.trace := by
  unfold pollDone
  split <;> rfl

@[simp] theorem pollPending_trace (s : State) : (pollPending s).trace = s.trace := by
  unfold pollPending
  split <;> rfl

theorem drainRow_appendsTabled (s : State) : AppendsTabled s (drainRow s) := by
  unfold drainRow
  split
  · exact busRead_appendsTabled s fun v x => rfl
  · refine busRead_appendsTabled s fun v x => ?_
    dsimp only
    split <;> rfl

theorem sequencerRow_appendsTabled (s : State) : AppendsTabled s (sequencerRow s) := by
  cases hp : s.phase with
  | idle => rw [sequencerRow_idle hp]; exact .of_eq rfl
  | stage => rw [sequencerRow_stage hp]; exact busWrite_appendsTabled s rfl fun x => rfl
  | select =>
    rw [sequencerRow_select hp]
    cases hc : s.cacheHit s.lPage with
    | true => rw [selectRow_hit hc]; exact .of_eq rfl
    | false => rw [selectRow_miss hc]; exact busWrite_appendsTabled s (wordWellFormed_pageSelect _) fun x => rfl
  | addr => rw [sequencerRow_addr hp]; exact busWrite_appendsTabled s (wordWellFormed_addrWord _ _) fun x => rfl
  | poll =>
    rw [sequencerRow_poll hp]
    refine busRead_appendsTabled s fun v x => ?_
    split
    · exact pollDone_trace x
    · exact pollPending_trace x
  | drain => rw [sequencerRow_drain hp]; exact drainRow_appendsTabled s

theorem access_appendsTabled (f : CmdFields) (s : State) : AppendsTabled s (access f s) := by
  cases hready : s.cmdReady with
  | false => rw [access_not_ready hready]; exact .of_eq rfl
  | true =>
    rw [access_ready hready]
    exact runRows_induct (AppendsTabled s) (fun x hx => hx.trans (sequencerRow_appendsTabled x)) _ _
      (.of_eq (accept_trace f s))

theorem idleStep_trace (s : State) : (idleStep s).trace = s.trace := by
  unfold idleStep
  split <;> rfl

/-- Settles O43: every row writes a tabled word or none, and so does every step. -/
theorem onlyTabledWordsAreWritten : Obligations.OnlyTabledWordsAreWritten := by
  intro s t hstep
  rcases step_cases s with
    ⟨-, hs⟩ | ⟨-, -, i, f, -, -, -, hs⟩ | ⟨-, -, -, -, hs⟩ | ⟨-, -, -, hs⟩ | ⟨-, -, hs⟩ <;>
    cases hs.symm.trans hstep
  · exact resetRegisters_appendsTabled _
  · exact access_appendsTabled f s
  · exact AppendsTabled.of_eq (by simp [acceptIllegal])
  · exact AppendsTabled.of_eq (idleStep_trace s)
  · exact sequencerRow_appendsTabled s

end Sys2Proof.Machine
end

section
/-!
The bits of the value a command does not use (R107): two runs whose values agree on the bits of the command's slots differ in
L_WDATA and the host's side alone (O53).
-/
namespace Sys2Proof.Machine

variable {f : CmdFields} {s t u : State}

/-! ## States that differ in the value and the host's side -/

/-- Another value latched, and the host's side changed. -/
def State.withInputs (v : Value) (p : Port) (l : List HostLine) (s : State) : State :=
  { s.withHost p l with lWdata := v }

/-- `u` is `t` but for L_WDATA, what stands at the command port, and the host's coming lines. -/
def SameButInputs (t u : State) : Prop :=
  ∃ v p l, u = t.withInputs v p l

theorem SameButInputs.phase_eq (h : SameButInputs t u) : u.phase = t.phase := by
  obtain ⟨v, p, l, rfl⟩ := h
  rfl

theorem SameButInputs.waiting_eq (h : SameButInputs t u) : u.waiting = t.waiting := by
  obtain ⟨v, p, l, rfl⟩ := h
  rfl

/-- An operation that reads neither the value nor the host's side. -/
def IgnoresInputs (k : State → State) : Prop :=
  ∀ t u, SameButInputs t u → SameButInputs (k t) (k u)

theorem ignoresInputs_of_comm {k : State → State}
    (h : ∀ v p l t, k (t.withInputs v p l) = (k t).withInputs v p l) : IgnoresInputs k := by
  rintro t _ ⟨v, p, l, rfl⟩
  exact ⟨v, p, l, h v p l t⟩

/-- Reset gives L_WDATA the same free value in both states (R48). -/
theorem resetRegisters_ignoresInputs : IgnoresInputs resetRegisters := by
  rintro t _ ⟨v, p, l, rfl⟩
  exact ⟨Config.freeWdata t.draws, p, l, rfl⟩

theorem busWrite_ignoresInputs {r : BusReg} {w : BusWord} {k : State → State} (hk : IgnoresInputs k) :
    IgnoresInputs (busWrite r w k) := by
  rintro t _ ⟨v, p, l, rfl⟩
  rcases he : t.env with _ | ⟨(x | e) | _ | _, rest⟩
  · rw [busWrite_nil he, busWrite_nil (by exact he)]
    exact ⟨v, p, l, rfl⟩
  · rw [busWrite_ok he, busWrite_ok (by exact he)]
    exact hk _ _ ⟨v, p, l, rfl⟩
  · rw [busWrite_err he, busWrite_err (by exact he)]
    exact ⟨v, p, l, rfl⟩
  · rw [busWrite_silent he, busWrite_silent (by exact he)]
    exact ⟨v, p, l, rfl⟩
  · rw [busWrite_rst he, busWrite_rst (by exact he)]
    exact resetRegisters_ignoresInputs _ _ ⟨v, p, l, rfl⟩

theorem busRead_ignoresInputs {r : BusReg} {k : BusWord → State → State} (hk : ∀ w, IgnoresInputs (k w)) :
    IgnoresInputs (busRead r k) := by
  rintro t _ ⟨v, p, l, rfl⟩
  rcases he : t.env with _ | ⟨(x | e) | _ | _, rest⟩
  · rw [busRead_nil he, busRead_nil (by exact he)]
    exact ⟨v, p, l, rfl⟩
  · rw [busRead_ok he, busRead_ok (by exact he)]
    exact hk x _ _ ⟨v, p, l, rfl⟩
  · rw [busRead_err he, busRead_err (by exact he)]
    exact ⟨v, p, l, rfl⟩
  · rw [busRead_silent he, busRead_silent (by exact he)]
    exact ⟨v, p, l, rfl⟩
  · rw [busRead_rst he, busRead_rst (by exact he)]
    exact resetRegisters_ignoresInputs _ _ ⟨v, p, l, rfl⟩

/-! ## The rows of R150 on two such states -/

/-- STAGE reads the value, but only the slot it writes. -/
theorem stageRow_sameButInputs (h : SameButInputs t u)
    (hword : slotWord u.lWdata t.slotIdx = slotWord t.lWdata t.slotIdx) : SameButInputs (stageRow t) (stageRow u) := by
  obtain ⟨v, p, l, rfl⟩ := h
  change SameButInputs _ (busWrite (.data t.slotIdx) (slotWord v t.slotIdx) _ _)
  rw [show slotWord v t.slotIdx = _ from hword]
  refine busWrite_ignoresInputs (ignoresInputs_of_comm fun _ _ _ _ => ?_) _ _ ⟨v, p, l, rfl⟩
  rfl

theorem pageSelectWrite_ignoresInputs (page : Page) : IgnoresInputs (pageSelectWrite page) :=
  busWrite_ignoresInputs (ignoresInputs_of_comm fun _ _ _ _ => rfl)

theorem selectRow_ignoresInputs : IgnoresInputs selectRow := by
  rintro t _ ⟨v, p, l, rfl⟩
  cases hc : t.cacheHit t.lPage with
  | true =>
    rw [selectRow_hit hc, selectRow_hit (by exact hc)]
    exact ⟨v, p, l, rfl⟩
  | false =>
    rw [selectRow_miss hc, selectRow_miss (by exact hc)]
    exact pageSelectWrite_ignoresInputs t.lPage _ _ ⟨v, p, l, rfl⟩

theorem addrWrite_ignoresInputs (reg : LReg) (op : BusWord) : IgnoresInputs (addrWrite reg op) :=
  busWrite_ignoresInputs (ignoresInputs_of_comm fun _ _ _ _ => rfl)

theorem addrRow_ignoresInputs : IgnoresInputs addrRow := by
  rintro t _ ⟨v, p, l, rfl⟩
  exact addrWrite_ignoresInputs t.lReg (opcodeOf t.lDir) _ _ ⟨v, p, l, rfl⟩

theorem pollDone_ignoresInputs : IgnoresInputs pollDone := by
  refine ignoresInputs_of_comm fun v p l t => ?_
  unfold pollDone
  rw [apply_ite (State.withInputs v p l)]
  rfl

theorem pollPending_ignoresInputs : IgnoresInputs pollPending := by
  refine ignoresInputs_of_comm fun v p l t => ?_
  unfold pollPending
  rw [apply_ite (State.withInputs v p l)]
  rfl

theorem pollRow_ignoresInputs : IgnoresInputs pollRow := by
  refine busRead_ignoresInputs fun w => ?_
  cases pollComplete w with
  | true => exact pollDone_ignoresInputs
  | false => exact pollPending_ignoresInputs

theorem drainByte_ignoresInputs : IgnoresInputs drainByte :=
  busRead_ignoresInputs fun _ => ignoresInputs_of_comm fun _ _ _ _ => rfl

theorem drainSlot_ignoresInputs : IgnoresInputs drainSlot := by
  rintro t _ ⟨v, p, l, rfl⟩
  refine busRead_ignoresInputs (fun w => ignoresInputs_of_comm fun v p l t => ?_) _ _ ⟨v, p, l, rfl⟩
  dsimp only
  rw [apply_ite (State.withInputs v p l)]
  rfl

theorem drainRow_ignoresInputs : IgnoresInputs drainRow := by
  rintro t _ ⟨v, p, l, rfl⟩
  unfold drainRow
  cases hb : t.lByte with
  | false =>
    rw [if_neg nofun, if_neg (by exact hb ▸ nofun)]
    exact drainSlot_ignoresInputs _ _ ⟨v, p, l, rfl⟩
  | true =>
    rw [if_pos rfl, if_pos (by exact hb)]
    exact drainByte_ignoresInputs _ _ ⟨v, p, l, rfl⟩

/-- A row on two such states, in STAGE with the same word to stage. -/
theorem sequencerRow_sameButInputs (h : SameButInputs t u)
    (hword : t.phase = .stage → slotWord u.lWdata t.slotIdx = slotWord t.lWdata t.slotIdx) :
    SameButInputs (sequencerRow t) (sequencerRow u) := by
  have hphase := h.phase_eq
  cases hp : t.phase with
  | idle => rw [sequencerRow_idle hp, sequencerRow_idle (hphase.trans hp)]; exact h
  | stage =>
    rw [sequencerRow_stage hp, sequencerRow_stage (hphase.trans hp)]
    exact stageRow_sameButInputs h (hword hp)
  | select =>
    rw [sequencerRow_select hp, sequencerRow_select (hphase.trans hp)]
    exact selectRow_ignoresInputs t u h
  | addr => rw [sequencerRow_addr hp, sequencerRow_addr (hphase.trans hp)]; exact addrRow_ignoresInputs t u h
  | poll => rw [sequencerRow_poll hp, sequencerRow_poll (hphase.trans hp)]; exact pollRow_ignoresInputs t u h
  | drain => rw [sequencerRow_drain hp, sequencerRow_drain (hphase.trans hp)]; exact drainRow_ignoresInputs t u h

/-! ## Two runs side by side -/

/-- A relation that every row keeps, between states with one PHASE that wait alike, is kept by runs of rows. -/
theorem runRows_induct₂ (R : State → State → Prop) (hphase : ∀ t u, R t u → u.phase = t.phase)
    (hwait : ∀ t u, R t u → u.waiting = t.waiting) (row : ∀ t u, R t u → R (sequencerRow t) (sequencerRow u)) :
    ∀ n t u, R t u → R (runRows n t) (runRows n u) := by
  intro n
  induction n with
  | zero => exact fun t u h => h
  | succ n ih =>
    intro t u h
    unfold runRows
    rw [hphase t u h, hwait t u h]
    split_ifs
    · exact h
    · exact row t u h
    · exact ih _ _ (row t u h)

/-- An access that stages holds the value, at a slot of the command. -/
theorem Ending.staging (h : Ending f s t) (hp : t.phase = .stage) :
    t.lWdata = s.port.wdata ∧ t.slotIdx.toNat ≤ f.nslot.toNat := by
  cases h with
  | stands site h =>
    cases site with
    | stage j =>
      obtain ⟨hdir, hj⟩ := h.wf
      have hslot : t.slotIdx = BitVec.ofNat 3 j := h.counters
      refine ⟨h.carries.wdata hdir, ?_⟩
      rw [hslot, BitVec.toNat_ofNat]
      exact (Nat.mod_le _ _).trans hj
    | _ => cases h.phase.symm.trans hp
  | ok _ _ _ h | transport _ _ h | timeout _ h | reset _ h => cases h.phase.symm.trans hp

/-- R114: a slot's word depends on its 16 bits of the value alone. -/
theorem slotWord_congr {v w : Value} {n : Nat} {i : BitVec 3} (hbits : ∀ k, k < 16 * (n + 1) → v.getLsbD k = w.getLsbD k)
    (hi : i.toNat ≤ n) : slotWord v i = slotWord w i := by
  rw [slotWord_eq_extract, slotWord_eq_extract]
  apply BitVec.eq_of_getLsbD_eq
  intro k hk
  rw [BitVec.getLsbD_extractLsb', BitVec.getLsbD_extractLsb', hbits _ (by omega)]

/-- The host presents this value beside its command word. -/
def State.presentValue (value : Value) (s : State) : State :=
  { s with port := { s.port with wdata := value } }

/-- Two accesses of one command, the second with the value `value` presented. -/
structure SideBySide (f : CmdFields) (s : State) (value : Value) (t u : State) : Prop where
  first : Ending f s t
  second : Ending f (s.presentValue value) u
  same : SameButInputs t u

/-- A row takes the two accesses on: where they stage, they stage the same word. -/
theorem SideBySide.row {value : Value} (hlegal : f.legal = true)
    (hbits : ∀ k, k < 16 * (f.nslot.toNat + 1) → value.getLsbD k = s.port.wdata.getLsbD k)
    (h : SideBySide f s value t u) : SideBySide f s value (sequencerRow t) (sequencerRow u) where
  first := sequencerRow_ending hlegal h.first
  second := sequencerRow_ending hlegal h.second
  same := by
    refine sequencerRow_sameButInputs h.same fun hp => ?_
    obtain ⟨hvalue, hslot⟩ := h.first.staging hp
    obtain ⟨hvalue', -⟩ := h.second.staging (h.same.phase_eq.trans hp)
    rw [hvalue, hvalue']
    exact slotWord_congr hbits hslot

theorem acceptFields_presentValue (f : CmdFields) (v w value : Value) (s : State) :
    acceptFields f w (s.presentValue value) = (acceptFields f v s).withInputs w
      (s.presentValue value).presentNext.port (s.presentValue value).presentNext.program := by
  cases h : s.program <;> simp [acceptFields, State.presentNext, State.presentValue, State.withInputs, State.withHost, h]

theorem accept_sameButInputs (f : CmdFields) (value : Value) (s : State) :
    SameButInputs (accept f s) (accept f (s.presentValue value)) :=
  ignoresInputs_of_comm (k := fun t => { t with phase := if f.dir then .stage else .select }) (fun _ _ _ _ => rfl) _ _
    ⟨_, _, _, acceptFields_presentValue f _ _ value s⟩

/-- R107: an access with another value, the same on the bits of the command's slots. -/
theorem access_sameButInputs {value : Value} (hlegal : f.legal = true) (hready : s.cmdReady = true)
    (hbits : ∀ k, k < 16 * (f.nslot.toNat + 1) → value.getLsbD k = s.port.wdata.getLsbD k) :
    SameButInputs (access f s) (access f (s.presentValue value)) := by
  rw [access_ready hready, access_ready (by exact hready)]
  have hstart : SideBySide f s value (accept f s) (accept f (s.presentValue value)) :=
    ⟨.stands _ accept_stands, .stands _ accept_stands, accept_sameButInputs f value s⟩
  exact (runRows_induct₂ (SideBySide f s value) (fun t u h => h.same.phase_eq) (fun t u h => h.same.waiting_eq)
    (fun t u h => h.row hlegal hbits) _ _ _ hstart).same

/-- Settles O53: the two accesses differ in L_WDATA and the host's side alone, and the statement names neither. -/
theorem unusedValueBitsAreIgnored : Obligations.UnusedValueBitsAreIgnored := by
  intro s i f value hi hready hbits
  obtain ⟨v, p, l, hsame⟩ := access_sameButInputs (legal_of_fields hi) hready hbits
  refine ⟨_, _, exec_command hi s, (exec_command hi (s.presentValue value)).trans (congrArg _ hsame), ?_⟩
  exact ⟨rfl, rfl, rfl, rfl, rfl, rfl, rfl⟩

end Sys2Proof.Machine
end

section
/-!
The page select on every environment: what an access does before it, that it is made on a miss only, and that nothing later in
the access makes another (R130 to R137) (O11, O12, O13, O15, O16, O42).
-/
namespace Sys2Proof.Machine

variable {f : CmdFields} {s t : State} {new : List BusEvent}

/-! ## The step in SELECT -/

/-- Settles O11: a step in SELECT is its row of R150, which on a hit moves on and on a miss writes the page (R131). -/
theorem pageSelectHitIssuesNothing : Obligations.PageSelectHitIssuesNothing := by
  intro s hr hp
  rw [step_in_flight hr (by simp [hp]), sequencerRow_select hp]
  split
  next hhit => rw [selectRow_hit (by simp [State.cacheHit, hhit])]
  next hmiss =>
    rw [selectRow_miss (by simpa [State.cacheHit] using hmiss)]
    rfl

/-- Settles O12: the bus write answered ok (R132). -/
theorem pageSelectWriteSetsCache : Obligations.PageSelectWriteSetsCache := by
  intro s p x rest he
  exact congrArg Host.Outcome.next (busWrite_ok he)

/-- Settles O13: the bus write answered err raises TransportError, which keeps everything the statement names (R133). -/
theorem pageSelectFailureKeepsCache : Obligations.PageSelectFailureKeepsCache := by
  intro s p e rest he
  refine ⟨_, congrArg Host.Outcome.next (busWrite_err he), ?_⟩
  simp [ErrorKind.status, ErrorKind.errInfo]

/-! ## An access's trace around its page select -/

/-- No page-select write that returned ok, and nothing on ADDR. -/
structure BusEvent.PrecedesSelect (e : BusEvent) : Prop where
  selects : e.selects = false
  addr : e.writes .addr = false
  polls : e.polls = false

theorem precedesSelect_of_mem_staged {v : Value} {n : Nat} {e : BusEvent} (he : e ∈ stagedTrace v n) :
    e.PrecedesSelect := by
  obtain ⟨k, -, rfl⟩ := List.mem_map.1 he
  exact ⟨rfl, rfl, rfl⟩

/-- The transactions of an access up to its site that come after its page select: trigger, polls, slot reads. -/
def Site.afterSelect (f : CmdFields) : Site → List BusEvent
  | .stage _ => []
  | .select => []
  | .addr => []
  | .poll pend => .w .addr (addrWord f.reg (opcodeOf f.dir)) :: pend.map (.r .addr)
  | .drain pend v words =>
    .w .addr (addrWord f.reg (opcodeOf f.dir)) :: pend.map (.r .addr) ++ .r .addr v :: drainedTrace words

theorem not_selects_of_mem_drained {words : List BusWord} {e : BusEvent} (he : e ∈ drainedTrace words) :
    e.selects = false := by
  obtain ⟨k, hk, rfl⟩ := List.mem_mapIdx.1 he
  rfl

theorem not_selects_of_mem_afterSelect {site : Site} {e : BusEvent} (he : e ∈ site.afterSelect f) :
    e.selects = false := by
  cases site with
  | stage | select | addr => cases he
  | poll pend =>
    simp only [Site.afterSelect, List.mem_cons, List.mem_map] at he
    rcases he with rfl | ⟨v, -, rfl⟩ <;> rfl
  | drain pend v words =>
    simp only [Site.afterSelect, List.cons_append, List.mem_cons, List.mem_append, List.mem_map] at he
    rcases he with rfl | ⟨w, -, rfl⟩ | rfl | he
    · rfl
    · rfl
    · rfl
    · exact not_selects_of_mem_drained he

/-- The access went past its page select (R130): after the staging the select's write stands in the trace, on a miss only, and
no other such write follows. -/
def PastSelect (f : CmdFields) (s : State) (new : List BusEvent) : Prop :=
  ∃ rest, new = stagedTrace s.port.wdata (stagedSlots f) ++ s.selectTrace f.page ++ rest ∧ ∀ e ∈ rest, e.selects = false

/-- A trace at a site past SELECT, with transactions after it that are no page select. -/
theorem pastSelect_of_trace {site : Site} {tail : List BusEvent}
    (htrace : site.trace f s = stagedTrace s.port.wdata (stagedSlots f) ++ s.selectTrace f.page ++ site.afterSelect f)
    (htail : ∀ e ∈ tail, e.selects = false) : PastSelect f s (site.trace f s ++ tail) :=
  ⟨site.afterSelect f ++ tail, by rw [htrace, List.append_assoc _ _ tail],
    List.forall_mem_append.2 ⟨fun _ => not_selects_of_mem_afterSelect, htail⟩⟩

/-- Every access, on any environment, has a trace of one of two kinds: up to its page select, or past it. -/
inductive SelectTrace (f : CmdFields) (s : State) (new : List BusEvent) : Prop where
  | upTo (hnew : ∀ e ∈ new, e.PrecedesSelect)
  | past (hpast : PastSelect f s new)

theorem site_selectTrace {site : Site} {tail : List BusEvent}
    (htail : ∀ x ∈ tail, x = .rst ∨ ∃ e, x = site.failure f s e) : SelectTrace f s (site.trace f s ++ tail) := by
  cases site with
  | stage | select =>
    refine .upTo (List.forall_mem_append.2 ⟨fun _ => precedesSelect_of_mem_staged, fun x hx => ?_⟩)
    rcases htail x hx with rfl | ⟨e, rfl⟩ <;> exact ⟨rfl, rfl, rfl⟩
  | addr | poll | drain =>
    refine .past (pastSelect_of_trace (by simp [Site.trace, Site.afterSelect]) fun x hx => ?_)
    rcases htail x hx with rfl | ⟨e, rfl⟩ <;> rfl

theorem EndsOk.pastSelect {pend : List BusWord} {v : BusWord} {words : List BusWord} (h : EndsOk f s t pend v words) :
    ∃ new, t.trace = s.trace ++ new ∧ PastSelect f s new :=
  ⟨Site.trace f s (.drain pend v words), h.trace, by
    simpa using pastSelect_of_trace (site := .drain pend v words) (tail := [])
      (by simp [Site.trace, Site.afterSelect]) (by simp)⟩

theorem Ending.selectTrace (h : Ending f s t) : ∃ new, t.trace = s.trace ++ new ∧ SelectTrace f s new := by
  cases h with
  | stands site h =>
    exact ⟨site.trace f s, h.trace, by simpa using site_selectTrace (site := site) (tail := []) (by simp)⟩
  | ok pend v words h =>
    obtain ⟨new, htrace, hpast⟩ := h.pastSelect
    exact ⟨new, htrace, .past hpast⟩
  | transport site e h =>
    exact ⟨_, h.trace.trans (List.append_assoc ..), site_selectTrace fun x hx => .inr ⟨e, List.mem_singleton.1 hx⟩⟩
  | timeout pend h => exact ⟨_, h.trace, by simpa using site_selectTrace (site := .poll pend) (tail := []) (by simp)⟩
  | reset site h => exact ⟨_, h.trace.trans (List.append_assoc ..), site_selectTrace (by simp)⟩

/-! ## What comes before the address register (R135) -/

theorem selectTrace_miss {p : Page} (hc : s.cache ≠ ⟨true, p⟩) : s.selectTrace p = [.w .page (pageSelectWord p)] :=
  if_neg hc

theorem selectTrace_hit {p : Page} (hc : s.cache = ⟨true, p⟩) : s.selectTrace p = [] :=
  if_pos hc

/-- R135: on a miss the select stands before every transaction on ADDR. -/
theorem SelectTrace.select_before (h : SelectTrace f s new) (hc : s.cache ≠ ⟨true, f.page⟩) {pre post : List BusEvent}
    {e : BusEvent} (hnew : new = pre ++ e :: post) (he : e.polls = true ∨ e.writes .addr = true) :
    .w .page (pageSelectWord f.page) ∈ pre := by
  have hnot : ¬ e.PrecedesSelect := fun hprec => by simp [hprec.polls, hprec.addr] at he
  cases h with
  | upTo hall => exact absurd (hall e (by simp [hnew])) hnot
  | past hpast =>
    obtain ⟨rest, hparts, -⟩ := hpast
    rw [selectTrace_miss hc] at hparts
    have hfront : e ∉ stagedTrace s.port.wdata (stagedSlots f) ++ [.w .page (pageSelectWord f.page)] := by
      intro hmem
      rcases List.mem_append.1 hmem with hmem | hmem
      · exact hnot (precedesSelect_of_mem_staged hmem)
      · obtain rfl := List.mem_singleton.1 hmem
        rcases he with he | he <;> cases he
    obtain ⟨between, rfl, -⟩ := exists_append_of_not_mem (hparts.symm.trans hnew) hfront
    simp

/-- Settles O15: the sentinel misses for every page, so the select stands before whatever touches ADDR. -/
theorem sentinelForcesPageSelect : Obligations.SentinelForcesPageSelect := by
  intro s i f hf hready hvalid
  obtain ⟨t, hexec, hend⟩ := exec_endings hf hready
  obtain ⟨new, htrace, hform⟩ := hend.selectTrace
  have hmiss : s.cache ≠ ⟨true, f.page⟩ := fun hc => by simp [hc] at hvalid
  exact ⟨t, new, hexec, htrace, fun _ _ _ => hform.select_before hmiss⟩

/-! ## How many selects succeed (R136) -/

theorem PastSelect.countP_selects (h : PastSelect f s new) :
    new.countP BusEvent.selects = if s.cache = ⟨true, f.page⟩ then 0 else 1 := by
  obtain ⟨rest, rfl, hrest⟩ := h
  have hstaged : (stagedTrace s.port.wdata (stagedSlots f)).countP BusEvent.selects = 0 :=
    List.countP_eq_zero.2 fun e he => by simp [(precedesSelect_of_mem_staged he).selects]
  have htail : rest.countP BusEvent.selects = 0 := List.countP_eq_zero.2 fun e he => by simp [hrest e he]
  rw [List.countP_append, List.countP_append, hstaged, htail]
  split
  next hc => simp [selectTrace_hit hc]
  next hc => simp [selectTrace_miss hc, BusEvent.selects]

/-- Settles O16: each access selects once on a miss and never on a hit, and the first leaves its page in the cache. -/
theorem pageSelectElided : Obligations.PageSelectElided := by
  intro s t u i j f g new hf hg hsready htready hexec hfin hok hexec' hfin' hok' hnew
  obtain ⟨_, _, _, hend⟩ := endsOk_of_exec hf hsready hexec hfin hok
  obtain ⟨_, _, _, hend'⟩ := endsOk_of_exec hg htready hexec' hfin' hok'
  obtain ⟨first, hfirst, hpast⟩ := hend.pastSelect
  obtain ⟨second, hsecond, hpast'⟩ := hend'.pastSelect
  have hsplit : new = first ++ second := by
    rw [hsecond, hfirst, List.append_assoc] at hnew
    exact (List.append_cancel_left hnew).symm
  have hcount : new.countP BusEvent.selects =
      (if s.cache = ⟨true, f.page⟩ then 0 else 1) + if f.page = g.page then 0 else 1 := by
    rw [hsplit, List.countP_append, hpast.countP_selects, hpast'.countP_selects, hend.cache]
    simp
  refine ⟨fun hmiss _ => ?_, fun hhit hsame => by simp [hcount, hhit, hsame]⟩
  rw [hcount, if_neg hmiss]
  split <;> rfl

/-! ## The cache after the access (R137) -/

/-- R23: what is neither a page select that returned ok nor a reset keeps the cache. -/
theorem cacheAfter_eq_self {e : BusEvent} (he : e.selects = false) (hr : e ≠ .rst) (c : PageCache) : cacheAfter c e = c := by
  cases e with
  | w r v =>
    cases r with
    | page => cases he
    | addr | data => rfl
  | rst => exact absurd rfl hr
  | wErr | r | rErr => rfl

theorem foldl_cacheAfter_eq_self {l : List BusEvent} (hl : ∀ e ∈ l, e.selects = false) (hr : .rst ∉ l)
    (c : PageCache) : l.foldl cacheAfter c = c := by
  induction l with
  | nil => rfl
  | cons e l ih =>
    obtain ⟨he, hl⟩ := List.forall_mem_cons.1 hl
    rw [List.mem_cons, not_or] at hr
    obtain ⟨hne, hr⟩ := hr
    rw [List.foldl_cons, cacheAfter_eq_self he (Ne.symm hne), ih hl hr]

theorem foldl_cacheAfter_selectTrace (s : State) (p : Page) : (s.selectTrace p).foldl cacheAfter s.cache = ⟨true, p⟩ := by
  by_cases hc : s.cache = ⟨true, p⟩
  · rw [selectTrace_hit hc]
    exact hc
  · rw [selectTrace_miss hc]
    exact cacheAfter_select s.cache p

theorem PastSelect.foldl_cacheAfter (h : PastSelect f s new) (hr : .rst ∉ new) :
    new.foldl cacheAfter s.cache = ⟨true, f.page⟩ := by
  obtain ⟨rest, rfl, hrest⟩ := h
  simp only [List.mem_append, not_or] at hr
  obtain ⟨⟨hstaged, -⟩, htail⟩ := hr
  rw [List.foldl_append, List.foldl_append,
    foldl_cacheAfter_eq_self (fun _ he => (precedesSelect_of_mem_staged he).selects) hstaged,
    foldl_cacheAfter_selectTrace, foldl_cacheAfter_eq_self hrest htail]

theorem PastSelect.select_mem (h : PastSelect f s new) (hc : s.cache ≠ ⟨true, f.page⟩) :
    .w .page (pageSelectWord f.page) ∈ new := by
  obtain ⟨rest, rfl, -⟩ := h
  simp [selectTrace_miss hc]

/-- R137: the cache an access leaves, by whether its page select returned ok. -/
theorem SelectTrace.foldl_cacheAfter (h : SelectTrace f s new) (hr : .rst ∉ new) :
    new.foldl cacheAfter s.cache =
      if BusEvent.w .page (pageSelectWord f.page) ∈ new then ⟨true, f.page⟩ else s.cache := by
  cases h with
  | upTo hall =>
    have hnot : BusEvent.w .page (pageSelectWord f.page) ∉ new := fun hmem => by cases (hall _ hmem).selects
    rw [if_neg hnot, foldl_cacheAfter_eq_self (fun e he => (hall e he).selects) hr]
  | past hpast =>
    rw [hpast.foldl_cacheAfter hr]
    split
    · rfl
    next hnot => exact (not_imp_comm.1 hpast.select_mem hnot).symm

/-- Settles O42: the cache follows the access's trace (R23), and of that trace only the page select writes it. -/
theorem cacheKeptThroughLaterFailure : Obligations.CacheKeptThroughLaterFailure := by
  intro s i f hf hready
  obtain ⟨t, hexec, hend⟩ := exec_endings hf hready
  obtain ⟨new, htrace, hform⟩ := hend.selectTrace
  cases hexec.symm.trans (exec_command hf s)
  obtain ⟨new', htrace', hcache⟩ := access_followsTrace f s
  obtain rfl := List.append_cancel_left (htrace.symm.trans htrace')
  exact ⟨_, new, hexec, htrace, fun hr => hcache.trans (hform.foldl_cacheAfter hr)⟩

end Sys2Proof.Machine
end

section
/-!
Several instances (R91, R138): a step always answers with a next state, so the k-th state's step replaces that state
alone (O60).
-/
namespace Sys2Proof.Machine

/-- The state a step answers with; `step_eq_next` says there always is one. -/
def State.afterStep (s : State) : State :=
  match step s with
  | .next t => t
  | .fault _ => s
  | .refused _ => s

/-- No step faults or is refused (R225, R231). -/
theorem step_eq_next (s : State) : step s = .next s.afterStep := by
  have hnext : ∃ t, step s = .next t := by
    rcases step_cases s with
      ⟨-, hs⟩ | ⟨-, -, i, f, -, -, -, hs⟩ | ⟨-, -, -, -, hs⟩ | ⟨-, -, -, hs⟩ | ⟨-, -, hs⟩ <;> exact ⟨_, hs⟩
  obtain ⟨t, ht⟩ := hnext
  rw [State.afterStep, ht]

theorem stepInstance_eq_modify (k : Nat) (sys : List State) :
    stepInstance k sys = .next (sys.modify k State.afterStep) := by
  rw [stepInstance, List.modify_eq_set_getElem?]
  cases sys[k]? with
  | none => rfl
  | some s => simp [step_eq_next]

/-- Settles O60: each step modifies the list of states at its own index, and different indices commute (R138). -/
theorem instancesAreIndependent : Obligations.InstancesAreIndependent := by
  refine ⟨fun k a b hk => ⟨_, _, stepInstance_eq_modify k a, stepInstance_eq_modify k b, ?_, ?_, fun j hj => ?_⟩,
    fun j k a hjk => ⟨_, _, _, stepInstance_eq_modify j a, stepInstance_eq_modify k _, stepInstance_eq_modify k a, ?_⟩⟩
  · simp [hk]
  · exact List.length_modify ..
  · simp [hj.symm]
  · rw [stepInstance_eq_modify, List.modify_modify_ne _ _ _ hjk]

end Sys2Proof.Machine
end

section
/-!
The sequencer's trigger and its poll, step by step: the bus word a step runs, what the address word's answer does (R142), and
what one poll answer decides (R143 to R146) (O8, O17, O18, O19, O20, O21).
-/
namespace Sys2Proof.Machine

variable {s : State}

/-! ## The bus word of a step (R150) -/

/-- Where a row writes a bus word, the step is that word's instruction. -/
theorem step_eq_exec_of_nextBusWord {i : Instr} (hr : s.rstAsserted = false) (hp : s.phase ≠ .idle)
    (hi : s.nextBusWord = some i) : step s = exec i s :=
  (step_in_flight hr hp).trans (exec_nextBusWord hi).symm

/-- Settles O8: in SELECT on a miss and in ADDR the next bus word is the one the statement names (R150). -/
theorem stepRunsSequencerBusWord : Obligations.StepRunsSequencerBusWord := by
  intro s hr
  refine ⟨fun hp hc => ?_, fun hp hd => ?_, fun hp hd => ?_⟩
  · exact step_eq_exec_of_nextBusWord hr (by simp [hp]) (by simp [State.nextBusWord, hp, cacheHit_iff, hc])
  · exact step_eq_exec_of_nextBusWord hr (by simp [hp]) (by simp [State.nextBusWord, hp, hd])
  · exact step_eq_exec_of_nextBusWord hr (by simp [hp]) (by simp [State.nextBusWord, hp, hd])

/-! ## The address word (R142) -/

/-- Settles O17: the bus write of the read's address word, answered ok (R111, R142). -/
theorem addrReadWordStartsPolling : Obligations.AddrReadWordStartsPolling := by
  intro s reg x rest he
  exact congrArg Host.Outcome.next (busWrite_ok he)

/-- Settles O18: the bus write of the write's address word, answered ok (R112, R142). -/
theorem addrWriteWordStartsPolling : Obligations.AddrWriteWordStartsPolling := by
  intro s reg x rest he
  exact congrArg Host.Outcome.next (busWrite_ok he)

/-- Settles O19: either address word answered err raises TransportError, which keeps everything the statement names. -/
theorem addrWordFailureEndsAccess : Obligations.AddrWordFailureEndsAccess := by
  intro s i reg op e rest hi he
  have hexec : exec i s = .next (addrWrite reg op s) := by
    rcases hi with ⟨rfl, rfl⟩ | ⟨rfl, rfl⟩ <;> rfl
  refine ⟨_, hexec.trans (congrArg Host.Outcome.next (busWrite_err he)), ?_⟩
  simp [ErrorKind.status, ErrorKind.errInfo]

/-! ## One poll (R143 to R146) -/

theorem rstAsserted_answered {a : BusRsp} {rest : List EnvEvent} (he : s.env = .rsp a :: rest) :
    s.rstAsserted = false := by
  simp [State.rstAsserted, he]

/-- With an answer at hand the step in POLL is the poll. -/
theorem step_poll {a : BusRsp} {rest : List EnvEvent} (hp : s.phase = .poll) (he : s.env = .rsp a :: rest) :
    step s = .next (pollRow s) :=
  (step_in_flight (rstAsserted_answered he) (by simp [hp])).trans (congrArg _ (sequencerRow_poll hp))

/-- Settles O21: the poll answered err raises TransportError before anything is counted (R144). -/
theorem pollErrorEndsAccess : Obligations.PollErrorEndsAccess := by
  intro s e rest hp he
  refine ⟨_, (step_poll hp he).trans (congrArg _ (busRead_err he)), ?_⟩
  simp [ErrorKind.status, ErrorKind.errInfo]

/-- R145: completion is both opcode bits clear. -/
theorem pollComplete_iff (v : BusWord) : pollComplete v = true ↔ v.getLsbD 1 = false ∧ v.getLsbD 0 = false := by
  have hmask : pollComplete v = true ↔ v &&& 3#16 = 0#16 := beq_iff_eq
  rw [hmask]
  constructor
  · intro h
    have hbit (k : Nat) := congrArg (·.getLsbD k) h
    exact ⟨by simpa using hbit 1, by simpa using hbit 0⟩
  · rintro ⟨h1, h0⟩
    have h1 : v[1] = false := h1
    have h0 : v[0] = false := h0
    apply BitVec.eq_of_getLsbD_eq
    intro k hk
    rw [BitVec.getLsbD_and]
    interval_cases k <;> simp [h0, h1]

/-- Settles O20: a completing poll finishes a write and starts a read's drain (R145); a pending one is counted, and only the
fifth ends the access (R143, R146). -/
theorem pollAnswerDecides : Obligations.PollAnswerDecides := by
  intro s v rest hp hcnt he
  have hstep := (step_poll hp he).trans (congrArg _ (busRead_ok he))
  simp only [← pollComplete_iff]
  by_cases hv : pollComplete v = true
  · rw [if_pos hv] at hstep
    cases hd : s.lDir <;> exact ⟨_, hstep, by simp [pollDone, hv, hd]⟩
  · rw [if_neg hv] at hstep
    by_cases hlast : s.pollCnt.toNat = 4
    · rw [pollPending_last (by simp [Config.pollMax, hlast])] at hstep
      exact ⟨_, hstep, by simp [hv, hlast, ErrorKind.status]⟩
    · rw [pollPending_below (by simp only [Config.pollMax]; omega)] at hstep
      exact ⟨_, hstep, by simp [hv, hlast, hp]⟩

end Sys2Proof.Machine
end

section
/-!
What an answer makes of a row of R150: the transaction the request port shows goes into the trace (R44), the answer is taken
(R46), and fewer rows are left, so that eleven answers are enough for any access (R152) (O39, O44).
-/
namespace Sys2Proof.Machine

variable {s t : State}

/-! ## The rows an access still has to take (R152) -/

/-- The slot reads that follow the polls: none for a write. -/
def State.readsLeft (s : State) : Nat :=
  if s.lDir then 0 else s.nslots.toNat

/-- An upper bound on the rows an access in flight still takes: slots, page select, trigger and five polls. -/
def State.rowsLeft (s : State) : Nat :=
  match s.phase with
  | .idle => 0
  | .stage => s.nslots.toNat - s.slotIdx.toNat + 7
  | .select => 7 + s.readsLeft
  | .addr => 6 + s.readsLeft
  | .poll => Config.pollMax - s.pollCnt.toNat + s.readsLeft
  | .drain => s.nslots.toNat - s.slotIdx.toNat

theorem rowsLeft_idle (hp : s.phase = .idle) : s.rowsLeft = 0 := by
  simp [State.rowsLeft, hp]

theorem rowsLeft_stage (hp : s.phase = .stage) : s.rowsLeft = s.nslots.toNat - s.slotIdx.toNat + 7 := by
  simp [State.rowsLeft, hp]

theorem rowsLeft_select (hp : s.phase = .select) : s.rowsLeft = 7 + s.readsLeft := by
  simp [State.rowsLeft, hp]

theorem rowsLeft_addr (hp : s.phase = .addr) : s.rowsLeft = 6 + s.readsLeft := by
  simp [State.rowsLeft, hp]

theorem rowsLeft_poll (hp : s.phase = .poll) :
    s.rowsLeft = Config.pollMax - s.pollCnt.toNat + s.readsLeft := by
  simp [State.rowsLeft, hp]

theorem rowsLeft_drain (hp : s.phase = .drain) : s.rowsLeft = s.nslots.toNat - s.slotIdx.toNat := by
  simp [State.rowsLeft, hp]

theorem readsLeft_write (hd : s.lDir = true) : s.readsLeft = 0 := by
  simp [State.readsLeft, hd]

theorem readsLeft_read (hd : s.lDir = false) : s.readsLeft = s.nslots.toNat := by
  simp [State.readsLeft, hd]

theorem readsLeft_le (s : State) : s.readsLeft ≤ 4 := by
  have hn := toNat_nslots s
  have := s.lNslot.isLt
  unfold State.readsLeft
  split <;> omega

/-- R152: no access takes more than eleven rows. -/
theorem rowsLeft_le (s : State) : s.rowsLeft ≤ Config.maxRows := by
  have hreads := readsLeft_le s
  have hn := toNat_nslots s
  have := s.lNslot.isLt
  unfold State.rowsLeft
  split <;> simp only [Config.maxRows, Config.pollMax] <;> omega

/-- An access in flight has a row left. -/
theorem State.RegInv.rowsLeft_pos (h : s.RegInv) (hp : s.phase ≠ .idle) : 0 < s.rowsLeft := by
  have hslot (hlt : s.slotIdx < s.nslots) : s.slotIdx.toNat < s.nslots.toNat := hlt
  cases hph : s.phase with
  | idle => exact absurd hph hp
  | stage => simp [rowsLeft_stage hph]
  | select => simp [rowsLeft_select hph]
  | addr => simp [rowsLeft_addr hph]
  | poll =>
    obtain ⟨-, -, hbelow⟩ := (phaseInv_poll hph).1 h.phase_inv
    rw [rowsLeft_poll hph]
    omega
  | drain =>
    obtain ⟨-, -, -, hlt, -⟩ := (phaseInv_drain hph).1 h.phase_inv
    rw [rowsLeft_drain hph]
    exact Nat.sub_pos_of_lt (hslot hlt)

theorem State.RegInv.idle_of_rowsLeft (h : s.RegInv) (hrows : s.rowsLeft ≤ 0) : s.phase = .idle := by
  by_contra hp
  exact absurd (h.rowsLeft_pos hp) (Nat.not_lt.2 hrows)

/-! ## A row with its answer at hand -/

/-- `u` is further on in the access than `s`: fewer rows are left, and an access that ended there has finished. -/
structure Advances (s u : State) : Prop where
  rowsLeft : s.RegInv → u.rowsLeft < s.rowsLeft
  finishes : u.phase = .idle → u.done = true

/-- The end of a command is further on than every row. -/
theorem advances_of_finished (hp : s.phase ≠ .idle) (hi : t.phase = .idle) (hd : t.done = true) : Advances s t :=
  ⟨fun h => (rowsLeft_idle hi).trans_lt (h.rowsLeft_pos hp), fun _ => hd⟩

theorem advances_of_phase (hi : t.phase ≠ .idle) (hlt : s.RegInv → t.rowsLeft < s.rowsLeft) : Advances s t :=
  ⟨hlt, fun h => absurd h hi⟩

/-- The row in `s` asks for the transaction `x`, and the answer `a` makes `t` of it, whatever answers come later. -/
structure RowAnswered (s : State) (x : Transaction) (a : BusRsp) (t : State) : Prop where
  row : ∀ env, sequencerRow { s with env := .rsp a :: env } = { t with env := env, trace := s.trace ++ [x.event a] }
  advances : Advances s t

/-- A row that is a bus write: on ok it goes on to `u`, and an error ends the access. -/
theorem busWrite_rowAnswered {r : BusReg} {v : BusWord} {k : State → State} {u : State} (hp : s.phase ≠ .idle)
    (hrow : ∀ env, sequencerRow { s with env := env } = busWrite r v k { s with env := env })
    (hk : ∀ env trace, k { s with env := env, trace := trace } = { u with env := env, trace := trace })
    (hu : Advances s u) (a : BusRsp) : ∃ t, RowAnswered s (.write r v) a t := by
  cases a with
  | ok x => exact ⟨u, fun env => (hrow _).trans ((busWrite_ok rfl).trans (hk _ _)), hu⟩
  | err e => exact ⟨raise (.transport e) s, fun env => (hrow _).trans (busWrite_err rfl), advances_of_finished hp rfl rfl⟩

/-- A row that is a bus read, as `busWrite_rowAnswered`. -/
theorem busRead_rowAnswered {r : BusReg} {k : BusWord → State → State} {u : BusWord → State} (hp : s.phase ≠ .idle)
    (hrow : ∀ env, sequencerRow { s with env := env } = busRead r k { s with env := env })
    (hk : ∀ v env trace, k v { s with env := env, trace := trace } = { u v with env := env, trace := trace })
    (hu : ∀ v, Advances s (u v)) (a : BusRsp) : ∃ t, RowAnswered s (.read r) a t := by
  cases a with
  | ok v => exact ⟨u v, fun env => (hrow _).trans ((busRead_ok rfl).trans (hk v _ _)), hu v⟩
  | err e => exact ⟨raise (.transport e) s, fun env => (hrow _).trans (busRead_err rfl), advances_of_finished hp rfl rfl⟩

/-! ## The rows of R150, answered -/

/-- A slot written or read leaves one slot less. -/
theorem slotsLeft_lt (h : s.slotIdx < s.nslots) :
    s.nslots.toNat - (s.slotIdx + 1).toNat < s.nslots.toNat - s.slotIdx.toNat := by
  obtain ⟨hsucc, hle, -⟩ := toNat_slotIdx_succ h
  omega

theorem stageRow_answered (hp : s.phase = .stage) (a : BusRsp) :
    ∃ t, RowAnswered s (.write (.data s.slotIdx) (slotWord s.lWdata s.slotIdx)) a t := by
  refine busWrite_rowAnswered (by simp [hp]) (fun env => sequencerRow_stage (s := { s with env := env }) hp)
    (u := { s with slotIdx := s.slotIdx + 1, phase := if s.slotIdx + 1 = s.nslots then .select else .stage })
    (fun _ _ => rfl) ?_ a
  by_cases hlast : s.slotIdx + 1 = s.nslots
  · rw [if_pos hlast]
    refine advances_of_phase (by simp) fun h => ?_
    obtain ⟨-, hdir, hslot⟩ := (phaseInv_stage hp).1 h.phase_inv
    rw [rowsLeft_select rfl, rowsLeft_stage hp, readsLeft_write (by exact hdir)]
    exact Nat.lt_add_of_pos_left (Nat.sub_pos_of_lt hslot)
  · rw [if_neg hlast]
    refine advances_of_phase (by simp) fun h => ?_
    obtain ⟨-, -, hslot⟩ := (phaseInv_stage hp).1 h.phase_inv
    rw [rowsLeft_stage rfl, rowsLeft_stage hp]
    exact Nat.add_lt_add_right (slotsLeft_lt hslot) 7

theorem selectRow_answered (hp : s.phase = .select) (hc : s.cacheHit s.lPage = false) (a : BusRsp) :
    ∃ t, RowAnswered s (.write .page (pageSelectWord s.lPage)) a t := by
  have hrow (env : List EnvEvent) : sequencerRow { s with env := env } = pageSelectWrite s.lPage { s with env := env } :=
    (sequencerRow_select (by exact hp)).trans (selectRow_miss (by exact hc))
  refine busWrite_rowAnswered (by simp [hp]) hrow (u := { s with cache := ⟨true, s.lPage⟩, phase := .addr })
    (fun _ _ => rfl) (advances_of_phase (by simp) fun _ => ?_) a
  rw [rowsLeft_select hp, rowsLeft_addr rfl]
  exact Nat.add_lt_add_right (by decide) s.readsLeft

theorem addrRow_answered (hp : s.phase = .addr) (a : BusRsp) :
    ∃ t, RowAnswered s (.write .addr (addrWord s.lReg (opcodeOf s.lDir))) a t := by
  have hrow (env : List EnvEvent) :
      sequencerRow { s with env := env } = addrWrite s.lReg (opcodeOf s.lDir) { s with env := env } :=
    sequencerRow_addr (by exact hp)
  refine busWrite_rowAnswered (by simp [hp]) hrow (u := { s with pollCnt := 0, phase := .poll }) (fun _ _ => rfl)
    (advances_of_phase (by simp) fun _ => ?_) a
  rw [rowsLeft_addr hp, rowsLeft_poll rfl]
  exact Nat.add_lt_add_right (show Config.pollMax - (0#3).toNat < 6 by decide) s.readsLeft

theorem pollDone_advances (hp : s.phase = .poll) : Advances s (pollDone s) := by
  unfold pollDone
  split
  next hd => exact advances_of_finished (by simp [hp]) rfl rfl
  next hd =>
    refine advances_of_phase (by simp) fun h => ?_
    obtain ⟨-, -, hbelow⟩ := (phaseInv_poll hp).1 h.phase_inv
    rw [rowsLeft_drain rfl, rowsLeft_poll hp, readsLeft_read (by simpa using hd)]
    exact Nat.lt_add_of_pos_left (Nat.sub_pos_of_lt hbelow)

theorem pollPending_advances (hp : s.phase = .poll) : Advances s (pollPending s) := by
  by_cases hb : s.pollCnt.toNat + 1 < Config.pollMax
  · rw [pollPending_below hb]
    refine advances_of_phase (by simp [hp]) fun _ => ?_
    have hcnt : (s.pollCnt + 1).toNat = s.pollCnt.toNat + 1 := by
      simp only [Config.pollMax] at hb
      simp
      omega
    rw [rowsLeft_poll (by exact hp), rowsLeft_poll hp]
    refine Nat.add_lt_add_right ?_ s.readsLeft
    dsimp only
    omega
  · rw [pollPending_last hb]
    exact advances_of_finished (by simp [hp]) rfl rfl

theorem pollDone_with_bus (s : State) (env : List EnvEvent) (trace : List BusEvent) :
    pollDone { s with env := env, trace := trace } = { pollDone s with env := env, trace := trace } := by
  cases hd : s.lDir <;> simp [pollDone, finishWrite, State.finish, hd]

theorem pollPending_with_bus (s : State) (env : List EnvEvent) (trace : List BusEvent) :
    pollPending { s with env := env, trace := trace } = { pollPending s with env := env, trace := trace } := by
  by_cases hb : s.pollCnt.toNat + 1 < Config.pollMax
  · rw [pollPending_below hb, pollPending_below (by exact hb)]
  · rw [pollPending_last hb, pollPending_last (by exact hb)]
    rfl

theorem pollRow_answered (hp : s.phase = .poll) (a : BusRsp) : ∃ t, RowAnswered s (.read .addr) a t := by
  refine busRead_rowAnswered (by simp [hp]) (fun env => sequencerRow_poll (s := { s with env := env }) hp)
    (u := fun v => if pollComplete v then pollDone s else pollPending s) (fun v env trace => ?_) (fun v => ?_) a
  · split
    · exact pollDone_with_bus s env trace
    · exact pollPending_with_bus s env trace
  · split
    · exact pollDone_advances hp
    · exact pollPending_advances hp

theorem drainRow_byte (hb : s.lByte = true) : drainRow s = drainByte s := by
  simp [drainRow, hb]

theorem drainRow_slot (hb : s.lByte = false) : drainRow s = drainSlot s := by
  simp [drainRow, hb]

theorem drainByte_answered (hp : s.phase = .drain) (hb : s.lByte = true) (a : BusRsp) :
    ∃ t, RowAnswered s (.read (.data 0)) a t := by
  have hrow (env : List EnvEvent) : sequencerRow { s with env := env } = drainByte { s with env := env } :=
    (sequencerRow_drain (by exact hp)).trans (drainRow_byte (by exact hb))
  exact busRead_rowAnswered (by simp [hp]) hrow
    (u := fun v => finishRead { s with acc := byteOfSlot v, slotIdx := 1 }) (fun _ _ _ => rfl)
    (fun v => advances_of_finished (by simp [hp]) rfl rfl) a

theorem drainSlot_answered (hp : s.phase = .drain) (hb : s.lByte = false) (a : BusRsp) :
    ∃ t, RowAnswered s (.read (.data s.slotIdx)) a t := by
  have hrow (env : List EnvEvent) : sequencerRow { s with env := env } = drainSlot { s with env := env } :=
    (sequencerRow_drain (by exact hp)).trans (drainRow_slot (by exact hb))
  by_cases hlast : s.slotIdx + 1 = s.nslots
  · refine busRead_rowAnswered (by simp [hp]) hrow
      (u := fun v => finishRead { s with acc := placeSlot s.acc s.slotIdx v, slotIdx := s.slotIdx + 1 }) ?_
      (fun v => advances_of_finished (by simp [hp]) rfl rfl) a
    exact fun _ _ _ => if_pos hlast
  · refine busRead_rowAnswered (by simp [hp]) hrow
      (u := fun v => { s with acc := placeSlot s.acc s.slotIdx v, slotIdx := s.slotIdx + 1 }) ?_
      (fun v => advances_of_phase (by simp [hp]) fun h => ?_) a
    · exact fun _ _ _ => if_neg hlast
    · obtain ⟨-, -, -, hslot, -⟩ := (phaseInv_drain hp).1 h.phase_inv
      rw [rowsLeft_drain (by exact hp), rowsLeft_drain hp]
      exact slotsLeft_lt hslot

theorem drainRow_answered (hp : s.phase = .drain) (a : BusRsp) :
    ∃ t, RowAnswered s (.read (.data (if s.lByte then 0 else s.slotIdx))) a t := by
  cases hb : s.lByte with
  | true => exact drainByte_answered hp hb a
  | false => exact drainSlot_answered hp hb a

/-- Everything an answer makes of a row: the transaction asked for enters the trace with it, and the access goes on. -/
theorem sequencerRow_answered {x : Transaction} (hx : s.pendingTransaction = some x) (a : BusRsp) :
    ∃ t, RowAnswered s x a t := by
  cases hp : s.phase with
  | idle => simp [State.pendingTransaction, hp] at hx
  | stage =>
    simp only [State.pendingTransaction, hp, Option.some.injEq] at hx
    exact hx ▸ stageRow_answered hp a
  | select =>
    simp only [State.pendingTransaction, hp, Option.ite_none_left_eq_some, Option.some.injEq] at hx
    obtain ⟨hmiss, rfl⟩ := hx
    exact selectRow_answered hp (by simpa using hmiss) a
  | addr =>
    simp only [State.pendingTransaction, hp, Option.some.injEq] at hx
    exact hx ▸ addrRow_answered hp a
  | poll =>
    simp only [State.pendingTransaction, hp, Option.some.injEq] at hx
    exact hx ▸ pollRow_answered hp a
  | drain =>
    simp only [State.pendingTransaction, hp, Option.some.injEq] at hx
    exact hx ▸ drainRow_answered hp a

theorem RowAnswered.sequencerRow_eq {x : Transaction} {a : BusRsp} {rest : List EnvEvent} (h : RowAnswered s x a t)
    (he : s.env = .rsp a :: rest) : sequencerRow s = { t with env := rest, trace := s.trace ++ [x.event a] } := by
  rw [← h.row rest, ← he]

/-- In flight, a row that asks for nothing is the hit row (R131). -/
theorem sequencerRow_of_no_pending (hp : s.phase ≠ .idle) (hx : s.pendingTransaction = none) :
    s.phase = .select ∧ sequencerRow s = { s with phase := .addr } := by
  cases hph : s.phase with
  | idle => exact absurd hph hp
  | select =>
    have hhit : s.cacheHit s.lPage = true := by
      by_contra hmiss
      simp [State.pendingTransaction, hph, hmiss] at hx
    exact ⟨rfl, (sequencerRow_select hph).trans (selectRow_hit hhit)⟩
  | stage | addr | poll | drain => simp [State.pendingTransaction, hph] at hx

/-- Settles O44: the step is the row, which makes the transaction of the port or, on a hit, none (R150). -/
theorem stepMakesTheRequestedTransaction : Obligations.StepMakesTheRequestedTransaction := by
  intro s a rest hp he
  have hr := rstAsserted_answered he
  refine ⟨_, step_in_flight hr hp, ?_⟩
  rw [transaction?_eq_pending hr]
  cases hx : s.pendingTransaction with
  | none =>
    obtain ⟨-, hrow⟩ := sequencerRow_of_no_pending hp hx
    exact hrow ▸ ⟨rfl, rfl⟩
  | some x =>
    obtain ⟨t, ht⟩ := sequencerRow_answered hx a
    rw [ht.sequencerRow_eq he]
    exact ⟨rfl, rfl⟩

/-! ## Enough answers (R152) -/

theorem rowsLeft_hit (hp : s.phase = .select) : ({ s with phase := .addr } : State).rowsLeft < s.rowsLeft := by
  rw [rowsLeft_select hp, rowsLeft_addr rfl]
  exact Nat.add_lt_add_right (by decide) s.readsLeft

/-- A run with as many rows and answers as the access can need ends it with a finish event. -/
theorem runRows_answered_finishes (n : Nat) : ∀ {s : State} {l : List BusRsp} {rest : List EnvEvent}, s.RegInv →
    (s.phase = .idle → s.done = true) → s.env = answered l ++ rest → s.rowsLeft ≤ n → s.rowsLeft ≤ l.length →
    (runRows n s).finished = true := by
  have hover {m : Nat} {s : State} (hfin : s.phase = .idle → s.done = true) (hi : s.phase = .idle) :
      (runRows m s).finished = true := by
    simp [runRows_idle m hi, State.finished, hi, hfin hi]
  induction n with
  | zero =>
    intro s l rest hinv hfin _ hn _
    exact hover hfin (hinv.idle_of_rowsLeft hn)
  | succ n ih =>
    intro s l rest hinv hfin he hn hl
    by_cases hp : s.phase = .idle
    · exact hover hfin hp
    have hpos := hinv.rowsLeft_pos hp
    obtain ⟨a, l, rfl⟩ := List.exists_cons_of_length_pos (hpos.trans_le hl)
    have he' : s.env = .rsp a :: (answered l ++ rest) := by simpa [answered] using he
    rw [runRows_row n hp (waiting_answered he')]
    have hinv' := sequencerRow_regInv s hinv
    cases hx : s.pendingTransaction with
    | none =>
      obtain ⟨hsel, hrow⟩ := sequencerRow_of_no_pending hp hx
      have hlt := rowsLeft_hit hsel
      rw [hrow] at hinv' ⊢
      exact ih hinv' (by simp) he (by omega) (by omega)
    | some x =>
      obtain ⟨t, ht⟩ := sequencerRow_answered hx a
      have hlt : t.rowsLeft < s.rowsLeft := ht.advances.rowsLeft hinv
      have hlen : s.rowsLeft ≤ l.length + 1 := hl
      rw [ht.sequencerRow_eq he'] at hinv' ⊢
      exact ih hinv' ht.advances.finishes rfl (Nat.le_of_lt_succ (hlt.trans_le hn)) (Nat.le_of_lt_succ (hlt.trans_le hlen))

/-- The ways an access can finish: with OK, with a transport error or with a timeout. -/
theorem Ending.of_finished {f : CmdFields} (h : Ending f s t) (hf : t.finished = true) :
    Carries f s t ∧ (t.status = .ok ∨ t.status = .transport ∨ t.status = .timeout) := by
  obtain ⟨-, hdone⟩ : t.phase = .idle ∧ t.done = true := by simpa [State.finished] using hf
  cases h with
  | stands site h => simp [h.done] at hdone
  | ok pend v words h => exact ⟨h.carries, .inl h.status⟩
  | transport site e h => exact ⟨h.carries, .inr (.inl h.status)⟩
  | timeout pend h => exact ⟨h.carries, .inr (.inr h.status)⟩
  | reset site h => simp [h.done] at hdone

/-- Settles O39: eleven rows are all an access takes, and each takes at most one answer (R152). -/
theorem answeredAccessFinishes : Obligations.AnsweredAccessFinishes := by
  intro s i f l rest hf hp hlen he
  have hready : s.cmdReady = true := by
    obtain ⟨a, l, rfl⟩ := List.exists_cons_of_length_pos (hlen ▸ (by decide : 0 < 11))
    exact cmdReady_answered hp (by simpa [answered] using he)
  have hlegal := legal_of_fields hf
  have hfin : (access f s).finished = true := by
    rw [access_ready hready]
    exact runRows_answered_finishes Config.maxRows (accept_regInv hlegal s) (by cases hd : f.dir <;> simp [hd]) (l := l)
      (by simpa using he) (rowsLeft_le _) ((rowsLeft_le _).trans hlen.ge)
  obtain ⟨hcarries, hstatus⟩ := (access_endings hlegal hready).of_finished hfin
  exact ⟨_, exec_command hf s, hfin, by rcases hstatus with h | h | h <;> simp [h], hcarries.holds⟩

end Sys2Proof.Machine
end

section
/-!
An access taken row by row through silences, against the same access on the answers alone: both are runs of the same rows from
the accept, and both come to where the rows change nothing more (R46, R150, R151) (O57).
-/
namespace Sys2Proof.Machine

open Function (IsFixedPt)

variable {s t u : State}

/-! ## The environment along the rows -/

theorem sequencerRow_rst {rest : List EnvEvent} (he : s.env = .rst :: rest) (ht : s.pendingTransaction ≠ none) :
    sequencerRow s = resetRegisters { s with env := rest } := by
  rcases sequencerRow_of_pending ht with ⟨r, v, k, -, hrow⟩ | ⟨r, k, -, hrow⟩
  · exact hrow.trans (busWrite_rst he)
  · exact hrow.trans (busRead_rst he)

/-- A row takes at most the next move of the environment. -/
theorem sequencerRow_env_suffix (s : State) : (sequencerRow s).env <:+ s.env := by
  cases hx : s.pendingTransaction with
  | none =>
    by_cases hp : s.phase = .idle
    · rw [sequencerRow_idle hp]
    · rw [(sequencerRow_of_no_pending hp hx).2]
  | some x =>
    have ht : s.pendingTransaction ≠ none := by simp [hx]
    rcases he : s.env with _ | ⟨a | _ | _, rest⟩
    · rw [sequencerRow_nil he ht, he]
    · obtain ⟨t, ht⟩ := sequencerRow_answered hx a
      rw [ht.sequencerRow_eq he]
      exact List.suffix_cons ..
    · rw [sequencerRow_silent he ht]
      exact List.suffix_cons ..
    · rw [sequencerRow_rst he ht]
      exact List.suffix_cons ..

/-- No row touches the command port (R93). -/
theorem sequencerRow_port (s : State) : (sequencerRow s).port = s.port :=
  (congrArg State.port (sequencerRow_ignoresHost s.port s.program s) :)

theorem rstAsserted_of_not_mem (hr : .rst ∉ s.env) : s.rstAsserted = false := by
  unfold State.rstAsserted
  split
  next he => simp [he] at hr
  · rfl

/-! ## Rows without silences -/

/-- The same state on its answers alone: the environment's silences are left out. -/
def State.withoutSilence (s : State) : State :=
  { s with env := s.env.filter (fun e => e ≠ .silent) }

theorem withoutSilence_eq_self (h : .silent ∉ s.env) : s.withoutSilence = s := by
  have henv : s.env.filter (fun e => e ≠ .silent) = s.env :=
    List.filter_eq_self.2 fun e he => decide_eq_true fun hs => h (hs ▸ he)
  rw [State.withoutSilence, henv]

theorem silent_not_mem_withoutSilence (s : State) : .silent ∉ s.withoutSilence.env := by
  simp [State.withoutSilence]

/-- A row that waits and has no silence before it waits for ever: no move of the environment is left. -/
theorem sequencerRow_waiting (hs : .silent ∉ s.env) (hp : s.phase ≠ .idle) (hw : s.waiting = true) :
    sequencerRow s = s := by
  have hx : s.pendingTransaction ≠ none := by
    intro hx
    obtain ⟨hsel, -⟩ := sequencerRow_of_no_pending hp hx
    have hhit : s.cacheHit s.lPage = true := by simpa [State.pendingTransaction, hsel] using hx
    simp [State.waiting, hsel, hhit] at hw
  rcases he : s.env with _ | ⟨a | _ | _, rest⟩
  · exact sequencerRow_nil he hx
  · simp [waiting_answered he] at hw
  · simp [he] at hs
  · simp [State.waiting, he] at hw

/-- Where there are no silences a run of n rows is the row, n times. -/
theorem runRows_eq_iterate (n : Nat) (hs : .silent ∉ s.env) : runRows n s = sequencerRow^[n] s := by
  induction n generalizing s with
  | zero => rfl
  | succ n ih =>
    by_cases hp : s.phase = .idle
    · rw [runRows_idle _ hp, Function.iterate_fixed (sequencerRow_idle hp)]
    cases hw : s.waiting with
    | true =>
      have hfix := sequencerRow_waiting hs hp hw
      rw [runRows_waiting n hp hw, hfix, Function.iterate_fixed hfix]
    | false =>
      rw [runRows_row n hp hw, Function.iterate_succ_apply]
      exact ih fun hmem => hs ((sequencerRow_env_suffix s).subset hmem)

/-! ## One move of a block that no command and no `rst` reaches -/

/-- A state of the block with its last command accepted and no `rst` to come. -/
structure Quiet (s : State) : Prop where
  inv : s.RegInv
  env : .rst ∉ s.env
  port : s.port.valid = false

/-- What a move from `s` to `t` is on the answers alone: none, with nothing left to do; none, with a silence passed; a row. -/
inductive Move (s t : State) : Prop where
  | settled (same : t.withoutSilence = s.withoutSilence) (fixed : IsFixedPt sequencerRow s.withoutSilence)
  | silence (same : t.withoutSilence = s.withoutSilence) (mem : .silent ∈ s.env) (rows : t.rowsLeft = s.rowsLeft)
      (env : t.env.length < s.env.length)
  | row (moved : t.withoutSilence = sequencerRow s.withoutSilence) (rows : t.rowsLeft < s.rowsLeft)
      (env : t.env.length ≤ s.env.length)

theorem Quiet.row (h : Quiet s) : Quiet (sequencerRow s) where
  inv := sequencerRow_regInv s h.inv
  env hmem := h.env ((sequencerRow_env_suffix s).subset hmem)
  port := by rw [sequencerRow_port]; exact h.port

theorem Quiet.move_row (h : Quiet s) : Move s (sequencerRow s) := by
  by_cases hp : s.phase = .idle
  · exact .settled (by rw [sequencerRow_idle hp]) (sequencerRow_idle hp)
  cases hx : s.pendingTransaction with
  | none =>
    obtain ⟨hsel, hrow⟩ := sequencerRow_of_no_pending hp hx
    obtain ⟨-, hrow'⟩ := sequencerRow_of_no_pending (s := s.withoutSilence) hp hx
    rw [hrow]
    exact .row hrow'.symm (rowsLeft_hit hsel) le_rfl
  | some x =>
    have ht : s.pendingTransaction ≠ none := by simp [hx]
    rcases he : s.env with _ | ⟨a | _ | _, rest⟩
    · have hfix := sequencerRow_nil he ht
      have hself : s.withoutSilence = s := withoutSilence_eq_self (by simp [he])
      exact .settled (by rw [hfix]) (hself.symm ▸ hfix)
    · obtain ⟨t, ht⟩ := sequencerRow_answered hx a
      have hanswers : s.withoutSilence = { s with env := .rsp a :: rest.filter (fun e => e ≠ .silent) } := by
        simp [State.withoutSilence, he]
      refine .row ?_ ?_ (sequencerRow_env_suffix s).length_le
      · rw [hanswers, ht.row, ht.sequencerRow_eq he]
        rfl
      · rw [ht.sequencerRow_eq he]
        exact ht.advances.rowsLeft h.inv
    · rw [sequencerRow_silent he ht]
      exact .silence (by simp [State.withoutSilence, he]) (by simp [he]) rfl (by simp [he])
    · exact absurd (he ▸ h.env) (by simp)

/-- R48: in IDLE with nothing presented only silences pass. -/
theorem Quiet.move_idleStep (h : Quiet s) (hp : s.phase = .idle) : Quiet (idleStep s) ∧ Move s (idleStep s) := by
  unfold idleStep
  split
  next rest he =>
    refine ⟨⟨h.inv.with_env rest, fun hmem => h.env (by simp [he, hmem]), h.port⟩, .settled ?_ (sequencerRow_idle hp)⟩
    simp [State.withoutSilence, he]
  · exact ⟨h, .settled rfl (sequencerRow_idle hp)⟩

theorem Quiet.step (h : Quiet s) : ∃ t, step s = .next t ∧ Quiet t ∧ Move s t := by
  have hr := rstAsserted_of_not_mem h.env
  by_cases hp : s.phase = .idle
  · exact ⟨_, step_unpresented hr hp h.port, h.move_idleStep hp⟩
  · exact ⟨_, step_in_flight hr hp, h.row, h.move_row⟩

/-! ## Moves in a row -/

/-- On the answers alone, some rows lead from `s` to `t`. -/
def RowsLead (s t : State) : Prop :=
  ∃ j, t.withoutSilence = sequencerRow^[j] s.withoutSilence

theorem Move.rowsLead (h : Move s t) : RowsLead s t := by
  cases h with
  | settled same | silence same => exact ⟨0, same⟩
  | row moved => exact ⟨1, moved⟩

theorem RowsLead.trans (hst : RowsLead s t) (htu : RowsLead t u) : RowsLead s u := by
  obtain ⟨j, hj⟩ := hst
  obtain ⟨k, hk⟩ := htu
  exact ⟨k + j, by rw [hk, hj, Function.iterate_add_apply]⟩

/-- Where the rows change nothing more, none of them leads anywhere else. -/
theorem RowsLead.eq_of_fixed (h : RowsLead s t) (hfix : IsFixedPt sequencerRow s.withoutSilence) :
    t.withoutSilence = s.withoutSilence := by
  obtain ⟨j, hj⟩ := h
  exact hj.trans (hfix.iterate j)

theorem Quiet.runRows (h : Quiet s) (n : Nat) : Quiet (runRows n s) ∧ RowsLead s (runRows n s) :=
  runRows_induct (fun t => Quiet t ∧ RowsLead s t)
    (fun _ ⟨hquiet, hlead⟩ => ⟨hquiet.row, hlead.trans hquiet.move_row.rowsLead⟩) n s ⟨h, 0, rfl⟩

theorem runRows_env_suffix (n : Nat) (s : State) : (runRows n s).env <:+ s.env :=
  runRows_induct (fun t => t.env <:+ s.env) (fun t ht => (sequencerRow_env_suffix t).trans ht) n s (List.suffix_refl _)

theorem run_succ {M : Host.Core} {k : Nat} {s t : M.State} (h : M.step s = .next t) : M.run (k + 1) s = M.run k t := by
  simp [Host.Core.run, h]

theorem Quiet.run (k : Nat) (h : Quiet s) : ∃ t, Host.Core.run core k s = .next t ∧ RowsLead s t := by
  induction k generalizing s with
  | zero => exact ⟨s, rfl, 0, rfl⟩
  | succ k ih =>
    obtain ⟨t, hstep, hquiet, hmove⟩ := h.step
    obtain ⟨u, hrun, hlead⟩ := ih hquiet
    exact ⟨u, (run_succ hstep).trans hrun, hmove.rowsLead.trans hlead⟩

/-- A step for each row left and each move of the environment brings the block to where no row changes anything more. -/
theorem Quiet.run_settles (k : Nat) (h : Quiet s) (hk : s.rowsLeft + s.env.length ≤ k) :
    ∃ t, Host.Core.run core k s = .next t ∧ RowsLead s t ∧ IsFixedPt sequencerRow t.withoutSilence := by
  induction k generalizing s with
  | zero =>
    have hidle : s.phase = .idle := h.inv.idle_of_rowsLeft (by omega)
    exact ⟨s, rfl, ⟨0, rfl⟩, sequencerRow_idle hidle⟩
  | succ k ih =>
    by_cases hfix : IsFixedPt sequencerRow s.withoutSilence
    · obtain ⟨t, hrun, hlead⟩ := h.run (k + 1)
      exact ⟨t, hrun, hlead, (hlead.eq_of_fixed hfix).symm ▸ hfix⟩
    · obtain ⟨t, hstep, hquiet, hmove⟩ := h.step
      have hless : t.rowsLeft + t.env.length ≤ k := by
        cases hmove with
        | settled _ hfix' => exact absurd hfix' hfix
        | silence _ _ hrows henv | row _ hrows henv => omega
      obtain ⟨u, hrun, hlead, hfixed⟩ := ih hquiet hless
      exact ⟨u, (run_succ hstep).trans hrun, hmove.rowsLead.trans hlead, hfixed⟩

/-- As many rows as are left settle a state with no silences. -/
theorem Quiet.iterate_settles (n : Nat) (h : Quiet s) (hs : .silent ∉ s.env) (hn : s.rowsLeft ≤ n) :
    IsFixedPt sequencerRow (sequencerRow^[n] s) := by
  induction n generalizing s with
  | zero => exact sequencerRow_idle (h.inv.idle_of_rowsLeft hn)
  | succ n ih =>
    have hs' : .silent ∉ (sequencerRow s).env := fun hmem => hs ((sequencerRow_env_suffix s).subset hmem)
    cases h.move_row with
    | settled _ hfix =>
      rw [withoutSilence_eq_self hs] at hfix
      exact (hfix.iterate (n + 1)).symm ▸ hfix
    | silence _ hmem => exact absurd hmem hs
    | row _ hrows _ =>
      rw [Function.iterate_succ_apply]
      exact ih h.row hs' (by omega)

/-! ## The two runs of a command -/

/-- Two states on one run of rows where the rows change nothing more are the same. -/
theorem iterate_eq_of_fixed {α : Type} {g : α → α} {x : α} {j k : Nat} (hj : IsFixedPt g (g^[j] x))
    (hk : IsFixedPt g (g^[k] x)) : g^[j] x = g^[k] x :=
  calc g^[j] x = g^[k] (g^[j] x) := (hj.iterate k).symm
    _ = g^[j] (g^[k] x) := by rw [← Function.iterate_add_apply, ← Function.iterate_add_apply, Nat.add_comm]
    _ = g^[k] x := hk.iterate j

theorem accept_withoutSilence (f : CmdFields) (s : State) : accept f s.withoutSilence = (accept f s).withoutSilence := by
  cases hprog : s.program <;>
    simp [accept, acceptFields, State.presentNext, State.latch, State.withoutSilence, hprog]

/-- With no further line to present, an accept leaves the port empty (R40). -/
theorem accept_quiet {f : CmdFields} (hlegal : f.legal = true) (hprog : s.program = []) (hr : .rst ∉ s.env) :
    Quiet (accept f s) where
  inv := accept_regInv hlegal s
  env := by rwa [accept_env]
  port := by simp [State.presentNext, hprog]

theorem Quiet.withoutSilence (h : Quiet s) : Quiet s.withoutSilence where
  inv := h.inv.with_env _
  env hmem := h.env (List.mem_of_mem_filter hmem)
  port := h.port

/-- The command at the port is what a step in IDLE runs, as the access of its fields. -/
theorem step_presented {i : Instr} (hr : s.rstAsserted = false) (hp : s.phase = .idle) (hv : s.port.valid = true)
    (hd : decode (.cmd32 s.port.cmd) = .ok i) : ∃ f, i.fields? = some f ∧ step s = .next (access f s) := by
  rcases step_cases s with
    ⟨hr', -⟩ | ⟨-, -, i', f, -, hd', hf, hs⟩ | ⟨-, -, -, ⟨x, hd'⟩, -⟩ | ⟨-, -, hv', -⟩ | ⟨-, hp', -⟩
  · simp [hr] at hr'
  · cases hd.symm.trans hd'
    exact ⟨f, hf, hs⟩
  · simp [hd] at hd'
  · simp [hv] at hv'
  · exact absurd hp hp'

/-- Settles O57: stepping and the whole access run the same rows from the accept, each to where the rows change nothing more:
stepping because a step for each row left and each move is enough, the access because eleven rows are all it takes. -/
theorem stepByStepReachesTheWholeAccess : Obligations.StepByStepReachesTheWholeAccess := by
  intro s i hp hv hprog hd hr
  obtain ⟨f, hf, hstep⟩ := step_presented (rstAsserted_of_not_mem hr) hp hv hd
  have hready : s.cmdReady = true := (cmdReady_iff s).2 ⟨hp, rstAsserted_of_not_mem hr⟩
  have hquiet : Quiet (accept f s) := accept_quiet (legal_of_fields hf) hprog hr
  have hready' : s.withoutSilence.cmdReady = true :=
    (cmdReady_iff _).2 ⟨hp, rstAsserted_of_not_mem fun hmem => hr (List.mem_of_mem_filter hmem)⟩
  have hwhole : access f s.withoutSilence = sequencerRow^[Config.maxRows] (accept f s).withoutSilence := by
    rw [access_ready hready', accept_withoutSilence, runRows_eq_iterate _ (silent_not_mem_withoutSilence _)]
  have hfixed : IsFixedPt sequencerRow (access f s.withoutSilence) :=
    hwhole ▸ hquiet.withoutSilence.iterate_settles _ (silent_not_mem_withoutSilence _) (rowsLeft_le _)
  obtain ⟨hquiet', hlead⟩ := hquiet.runRows Config.maxRows
  have hsteps : (runRows Config.maxRows (accept f s)).rowsLeft + (runRows Config.maxRows (accept f s)).env.length
      ≤ 11 + s.env.length :=
    Nat.add_le_add (rowsLeft_le _) (by simpa using (runRows_env_suffix Config.maxRows (accept f s)).length_le)
  obtain ⟨t, hrun, hlead', hfixed'⟩ := hquiet'.run_settles _ hsteps
  obtain ⟨j, hj⟩ := hlead.trans hlead'
  have hsame : t.withoutSilence = access f s.withoutSilence := by
    rw [hwhole] at hfixed ⊢
    rw [hj] at hfixed' ⊢
    exact iterate_eq_of_fixed hfixed' hfixed
  rw [access_ready hready] at hstep
  refine ⟨t, access f s.withoutSilence, ?_, exec_command hf s.withoutSilence, ?_⟩
  · rw [show 12 + s.env.length = 11 + s.env.length + 1 by omega]
    exact (run_succ hstep).trans hrun
  · exact congrArg (fun u : State => { u with env := [] }) hsame

end Sys2Proof.Machine
end

section
/-!
The timeout of an access (R146, R223): run from five pending polls, and read off an access that ended with it (O22, O23).
-/
namespace Sys2Proof.Machine

variable {f : CmdFields} {s t : State}

/-! ## Running an access up to its timeout -/

/-- The staging of the slots from slot `i` on, answered ok (R181). -/
theorem runRows_staging (staged : List BusWord) : ∀ {n i : Nat} {s : State} {old : List BusEvent} {rest : List EnvEvent},
    s.phase = .stage → s.slotIdx = BitVec.ofNat 3 i → s.trace = old ++ stagedTrace s.lWdata i →
    s.env = oks staged ++ rest → staged ≠ [] → i + staged.length = s.lNslot.toNat + 1 →
    runRows (n + staged.length) s = runRows n
      { s with
        env := rest, trace := old ++ stagedTrace s.lWdata (i + staged.length)
        slotIdx := BitVec.ofNat 3 (i + staged.length), phase := .select } := by
  induction staged with
  | nil => intro n i s old rest _ _ _ _ hne _; exact absurd rfl hne
  | cons w staged ih =>
    intro n i s old rest hp hi ht he _ hn
    have hlt := s.lNslot.isLt
    have htrace : s.trace ++ [.w (.data s.slotIdx) (slotWord s.lWdata s.slotIdx)] = old ++ stagedTrace s.lWdata (i + 1) := by
      rw [ht, hi, stagedTrace_succ, List.append_assoc]
    have hnext : s.slotIdx + 1 = BitVec.ofNat 3 (i + 1) := by rw [hi, BitVec.ofNat_add]; rfl
    rw [List.length_cons] at hn ⊢
    rw [← Nat.add_assoc, runRows_stage hp (rest := oks staged ++ rest) (by simpa [oks] using he), htrace, hnext]
    have hslots : BitVec.ofNat 3 (i + 1) = s.nslots ↔ staged = [] := by
      rw [← BitVec.toNat_inj, toNat_nslots, BitVec.toNat_ofNat, ← List.length_eq_zero_iff]
      omega
    have hindex : i + 1 + staged.length = i + (staged.length + 1) := by omega
    by_cases hlast : staged = []
    · simp [hslots, hlast, oks]
    · rw [if_neg (by simpa [hslots] using hlast)]
      refine Eq.trans (ih (old := old) (rest := rest) rfl rfl rfl rfl hlast (hindex.trans hn)) ?_
      rw [hindex]

/-- A command accepted, with the slots it stages answered ok: it stands in SELECT. -/
theorem access_staged {staged : List BusWord} {rest : List EnvEvent} (hready : s.cmdReady = true)
    (hlen : staged.length = stagedSlots f) (he : s.env = oks staged ++ rest) :
    access f s = runRows (Config.maxRows - staged.length)
      { accept f s with
        env := rest, trace := s.trace ++ stagedTrace s.port.wdata staged.length
        slotIdx := BitVec.ofNat 3 staged.length, phase := .select } := by
  rw [access_ready hready]
  cases hd : f.dir with
  | false =>
    obtain rfl : staged = [] := List.length_eq_zero_iff.1 (by simpa [stagedSlots, hd] using hlen)
    have henv : s.env = rest := he
    have hself : accept f s = { accept f s with
        env := rest, trace := s.trace ++ [], slotIdx := 0, phase := .select } := by
      simp [accept, hd, ← henv]
    exact congrArg (runRows Config.maxRows) hself
  | true =>
    have hlen' : staged.length = f.nslot.toNat + 1 := by simpa [stagedSlots, hd] using hlen
    have hlt := f.nslot.isLt
    rw [show Config.maxRows = Config.maxRows - staged.length + staged.length by simp only [Config.maxRows]; omega]
    rw [runRows_staging staged (i := 0) (old := s.trace) (rest := rest) (by simp [hd]) (by simp) (by simp) (by simpa using he)
      (by rintro rfl; simp at hlen') (by simpa using hlen')]
    simp [hd]

/-- The page select and the trigger of an access, answered ok (R130, R142). -/
theorem runRows_trigger {x y : BusWord} {n : Nat} {rest : List EnvEvent} (hp : s.phase = .select)
    (he : s.env = s.selectAnswer s.lPage x ++ oks [y] ++ rest) :
    runRows (n + 2) s = runRows n
      { s with
        env := rest, trace := s.trace ++ s.selectTrace s.lPage ++ [.w .addr (addrWord s.lReg (opcodeOf s.lDir))]
        cache := ⟨true, s.lPage⟩, pollCnt := 0, phase := .poll } := by
  by_cases hc : s.cache = ⟨true, s.lPage⟩
  · rw [runRows_select_hit hp hc, runRows_addr (x := y) (rest := rest) rfl (by simpa [State.selectAnswer, hc, oks] using he)]
    simp [selectTrace_hit hc, hc]
  · rw [runRows_select_miss (x := x) (rest := oks [y] ++ rest) hp hc (by simpa [State.selectAnswer, hc, oks] using he),
      runRows_addr (x := y) (rest := rest) rfl (by simp [oks])]
    simp [selectTrace_miss hc]

/-- Five polls that all see pending end the access (R146); whether it pauses once more is open (R148). -/
theorem runRows_timeout {pend : List BusWord} {n : Nat} {rest : List EnvEvent} (hp : s.phase = .poll) (h0 : s.pollCnt = 0)
    (hlen : pend.length = 5) (hpend : ∀ w ∈ pend, pollComplete w = false) (he : s.env = oks pend ++ rest) :
    ∃ sleeps, runRows (n + 5) s = raise .timeout
      { s with env := rest, trace := s.trace ++ pend.map (.r .addr), pollCnt := 5, sleeps := sleeps } := by
  obtain ⟨first, last, rfl⟩ : ∃ first last, pend = first ++ [last] :=
    ⟨_, _, (List.dropLast_append_getLast (l := pend) (by rintro rfl; simp at hlen)).symm⟩
  have hfirst : first.length = 4 := by simpa using hlen
  obtain ⟨hall, hlast⟩ := List.forall_mem_append.1 hpend
  have hrun := runRows_pending first (n := n + 1) (rest := .rsp (.ok last) :: rest) hp (by simp [he, oks])
    (by simp [h0, hfirst, Config.pollMax]) hall
  rw [hfirst] at hrun
  refine ⟨if Config.sleepAfterLastPoll then s.sleeps + 4 + 1 else s.sleeps + 4, hrun.trans ?_⟩
  rw [runRows_poll (by exact hp) (by rfl), if_neg (by simpa using hlast), pollPending_last (by simp [h0, Config.pollMax]),
    runRows_idle n rfl]
  simp [h0]

/-- A run_op from SELECT on whose page select and trigger are answered ok and whose five polls all see pending (R140). -/
theorem runRows_runOp_timeout {pend : List BusWord} {x y : BusWord} {n : Nat} {rest : List EnvEvent}
    (hp : s.phase = .select) (hlen : pend.length = 5) (hpend : ∀ w ∈ pend, pollComplete w = false)
    (he : s.env = s.selectAnswer s.lPage x ++ oks (y :: pend) ++ rest) :
    ∃ sleeps, runRows (n + 7) s = raise .timeout
      { s with
        env := rest, cache := ⟨true, s.lPage⟩, pollCnt := 5, phase := .poll, sleeps := sleeps
        trace := s.trace ++ s.selectTrace s.lPage ++ [.w .addr (addrWord s.lReg (opcodeOf s.lDir))]
          ++ pend.map (.r .addr) } := by
  rw [show n + 7 = n + 5 + 2 by omega,
    runRows_trigger (x := x) (y := y) (rest := oks pend ++ rest) hp (by simpa [oks] using he)]
  exact runRows_timeout rfl rfl hlen hpend rfl

/-- A command whose staging, page select and trigger are answered ok and whose five polls all see pending (R146, R181). -/
theorem access_timeout {staged pend : List BusWord} {x y : BusWord} {rest : List EnvEvent} (hready : s.cmdReady = true)
    (hstaged : staged.length = stagedSlots f) (hlen : pend.length = 5) (hpend : ∀ w ∈ pend, pollComplete w = false)
    (he : s.env = oks staged ++ s.selectAnswer f.page x ++ oks (y :: pend) ++ rest) :
    ∃ sleeps, access f s = raise .timeout
      { accept f s with
        env := rest, cache := ⟨true, f.page⟩, slotIdx := BitVec.ofNat 3 staged.length, pollCnt := 5, phase := .poll
        sleeps := sleeps
        trace := s.trace ++ stagedTrace s.port.wdata staged.length ++ s.selectTrace f.page
          ++ [.w .addr (addrWord f.reg (opcodeOf f.dir))] ++ pend.map (.r .addr) } := by
  have hfuel : Config.maxRows - staged.length = 4 - staged.length + 7 := by
    have hlt := f.nslot.isLt
    simp only [stagedSlots] at hstaged
    simp only [Config.maxRows]
    split at hstaged <;> omega
  rw [access_staged (rest := s.selectAnswer f.page x ++ oks (y :: pend) ++ rest) hready hstaged (by simpa using he), hfuel]
  obtain ⟨sleeps, hrun⟩ := runRows_runOp_timeout (n := 4 - staged.length) (s := { accept f s with
      env := s.selectAnswer f.page x ++ oks (y :: pend) ++ rest, slotIdx := BitVec.ofNat 3 staged.length, phase := .select
      trace := s.trace ++ stagedTrace s.port.wdata staged.length })
    rfl hlen hpend (x := x) (y := y) (rest := rest) (by simp [State.selectAnswer])
  exact ⟨sleeps, hrun.trans (by simp [State.selectTrace])⟩

/-- Settles O22: the slots are staged, the page selected, the trigger written, and five of the eleven rows are polls (R146). -/
theorem fivePendingPollsTimeOut : Obligations.FivePendingPollsTimeOut := by
  intro s i f staged x y pend rest hf hready hstaged hlen hpend he
  obtain ⟨sleeps, hrun⟩ := access_timeout hready hstaged hlen hpend he
  refine ⟨_, stagedTrace s.port.wdata staged.length, (exec_command hf s).trans (congrArg _ hrun), ?_⟩
  refine ⟨by simp [State.finishedFrom, State.holds, ErrorKind.status], rfl, rfl, rfl, rfl, by simp [stagedTrace], ?_⟩
  intro e he
  obtain ⟨k, -, rfl⟩ := List.mem_map.1 he
  rfl

/-! ## An access that ended with a timeout -/

theorem eq_of_mem_selectTrace {p : Page} {e : BusEvent} (he : e ∈ s.selectTrace p) : e = .w .page (pageSelectWord p) := by
  unfold State.selectTrace at he
  split at he
  · cases he
  · exact List.mem_singleton.1 he

/-- Everything an access did before it failed or stopped returned ok. -/
theorem not_failed_of_mem_trace {site : Site} {e : BusEvent} (he : e ∈ site.trace f s) : e.failed = false := by
  have hstaged {v : Value} {n : Nat} (he : e ∈ stagedTrace v n) : e.failed = false := by
    obtain ⟨k, -, rfl⟩ := List.mem_map.1 he
    rfl
  have hselect (he : e ∈ s.selectTrace f.page) : e.failed = false := by
    rw [eq_of_mem_selectTrace he]
    rfl
  have hdrained {words : List BusWord} (he : e ∈ drainedTrace words) : e.failed = false := by
    obtain ⟨k, hk, rfl⟩ := List.mem_mapIdx.1 he
    rfl
  cases site with
  | stage | select => exact hstaged he
  | addr => exact (List.mem_append.1 he).elim hstaged hselect
  | poll pend =>
    simp only [Site.trace, List.mem_append, List.mem_singleton, List.mem_map] at he
    rcases he with ((he | he) | rfl) | ⟨v, -, rfl⟩
    · exact hstaged he
    · exact hselect he
    · rfl
    · rfl
  | drain pend v words =>
    simp only [Site.trace, List.mem_append, List.mem_singleton, List.mem_map] at he
    rcases he with ((((he | he) | rfl) | ⟨w, -, rfl⟩) | rfl) | he
    · exact hstaged he
    · exact hselect he
    · rfl
    · rfl
    · rfl
    · exact hdrained he

/-- The only way for an access to finish with TIMEOUT. -/
theorem Ending.endsInTimeout (h : Ending f s t) (hf : t.finished = true) (hs : t.status = .timeout) :
    ∃ pend, EndsInTimeout f s pend t := by
  obtain ⟨-, hdone⟩ : t.phase = .idle ∧ t.done = true := by simpa [State.finished] using hf
  cases h with
  | stands site h => simp [h.done] at hdone
  | ok pend v words h => simp [h.status] at hs
  | transport site e h => simp [h.status] at hs
  | timeout pend h => exact ⟨pend, h⟩
  | reset site h => simp [h.done] at hdone

/-- Before its polls an access makes none. -/
theorem not_polls_of_mem_trigger {e : BusEvent} (he : e ∈ Site.trace f s (.poll [])) : e.polls = false := by
  simp only [Site.trace, List.map_nil, List.append_nil, List.mem_append, List.mem_singleton] at he
  rcases he with (he | he) | rfl
  · exact (isStaging_of_mem_staged he).polls
  · rw [eq_of_mem_selectTrace he]
    rfl
  · rfl

/-- Settles O23: of the endings of an access only the timeout has that status, and its trace is that of five pending polls. -/
theorem timeoutMeansFivePendingPolls : Obligations.TimeoutMeansFivePendingPolls := by
  intro s i f hf hready
  obtain ⟨t, hexec, hend⟩ := exec_endings hf hready
  obtain ⟨new, htrace, -⟩ := hend.accessTrace
  refine ⟨t, new, hexec, htrace, fun hfin hstatus => ?_⟩
  obtain ⟨pend, h⟩ := hend.endsInTimeout hfin hstatus
  obtain rfl := List.append_cancel_left (htrace.symm.trans h.trace)
  refine ⟨Site.trace f s (.poll []), pend, by simp [Site.trace], h.length, h.pending, fun e he => ?_⟩
  exact ⟨not_polls_of_mem_trigger he, not_failed_of_mem_trace he⟩

end Sys2Proof.Machine
end

section
/-!
How many bus transactions an access makes, by where it stands and how it ended (R152) (O38).
-/
namespace Sys2Proof.Machine

variable {f : CmdFields} {s t : State} {new : List BusEvent}

/-! ## Counting a trace -/

/-- How many transactions a trace holds: in all, polls, address words, page-select writes. -/
def tally (l : List BusEvent) : Nat × Nat × Nat × Nat :=
  (l.length, l.countP BusEvent.polls, l.countP (BusEvent.writes .addr), l.countP (BusEvent.writes .page))

theorem tally_append (a b : List BusEvent) : tally (a ++ b) = tally a + tally b := by
  simp [tally]

theorem tally_staged (v : Value) (n : Nat) : tally (stagedTrace v n) = (n, 0, 0, 0) := by
  have hnone {p : BusEvent → Bool} (hp : ∀ e : BusEvent, e.IsStaging → p e = false) :
      (stagedTrace v n).countP p = 0 :=
    List.countP_eq_zero.2 fun e he => by simp [hp e (isStaging_of_mem_staged he)]
  rw [tally, hnone fun _ h => h.polls, hnone fun _ h => h.addr, hnone fun _ h => h.page]
  simp [stagedTrace]

/-- R152's m: whether the page select of an access misses. -/
def State.misses (s : State) (p : Page) : Nat :=
  if s.cache = ⟨true, p⟩ then 0 else 1

theorem misses_le (s : State) (p : Page) : s.misses p ≤ 1 := by
  unfold State.misses
  split <;> decide

theorem tally_select (s : State) (p : Page) : tally (s.selectTrace p) = (s.misses p, 0, 0, s.misses p) := by
  unfold State.misses
  split
  next hc => rw [selectTrace_hit hc]; rfl
  next hc => rw [selectTrace_miss hc]; rfl

theorem tally_trigger (v : BusWord) : tally [.w .addr v] = (1, 0, 1, 0) := rfl

theorem tally_poll (v : BusWord) : tally [.r .addr v] = (1, 1, 0, 0) := rfl

theorem tally_polls (pend : List BusWord) : tally (pend.map (.r .addr)) = (pend.length, pend.length, 0, 0) := by
  simp [tally, List.countP_map, Function.comp_def, BusEvent.polls, BusEvent.writes]

theorem tally_drained (words : List BusWord) : tally (drainedTrace words) = (words.length, 0, 0, 0) := by
  have hnone {p : BusEvent → Bool} (hp : ∀ i w, p (.r (.data i) w) = false) : (drainedTrace words).countP p = 0 :=
    List.countP_eq_zero.2 fun e he => by
      obtain ⟨k, hk, rfl⟩ := List.mem_mapIdx.1 he
      simp [hp]
  rw [tally, hnone fun _ _ => rfl, hnone fun _ _ => rfl, hnone fun _ _ => rfl]
  simp [drainedTrace]

/-- R152's sums: the transactions of an access up to its site. -/
def Site.tally (f : CmdFields) (s : State) : Site → Nat × Nat × Nat × Nat
  | .stage j => (j, 0, 0, 0)
  | .select => (stagedSlots f, 0, 0, 0)
  | .addr => (stagedSlots f + s.misses f.page, 0, 0, s.misses f.page)
  | .poll pend => (stagedSlots f + s.misses f.page + 1 + pend.length, pend.length, 1, s.misses f.page)
  | .drain pend _ words =>
    (stagedSlots f + s.misses f.page + 1 + pend.length + 1 + words.length, pend.length + 1, 1, s.misses f.page)

theorem tally_trace (site : Site) : tally (site.trace f s) = site.tally f s := by
  cases site <;>
    simp only [Site.trace, Site.tally, tally_append, tally_staged, tally_select, tally_trigger, tally_poll, tally_polls,
      tally_drained, Prod.mk_add_mk, Nat.zero_add, Nat.add_zero]

/-- What a failed transaction at a site adds. -/
def Site.failureTally : Site → Nat × Nat × Nat × Nat
  | .stage _ => (1, 0, 0, 0)
  | .select => (1, 0, 0, 1)
  | .addr => (1, 0, 1, 0)
  | .poll _ => (1, 1, 0, 0)
  | .drain _ _ _ => (1, 0, 0, 0)

theorem tally_failed (site : Site) (e : ErrT) :
    tally (site.trace f s ++ [site.failure f s e]) = site.tally f s + site.failureTally := by
  have hfailure : tally [site.failure f s e] = site.failureTally := by cases site <;> rfl
  rw [tally_append, tally_trace, hfailure]

/-! ## At most eleven transactions -/

/-- R152's bounds: eleven transactions in all, five polls, one address word, one page-select write. -/
def tallyMax : Nat × Nat × Nat × Nat := (11, 5, 1, 1)

theorem stagedSlots_le (f : CmdFields) : stagedSlots f ≤ 4 := by
  have := f.nslot.isLt
  unfold stagedSlots
  split <;> omega

theorem stagedSlots_read (hd : f.dir = false) : stagedSlots f = 0 := by
  simp [stagedSlots, hd]

theorem failed_tally_le {site : Site} (hwf : site.wf f) : site.tally f s + site.failureTally ≤ tallyMax := by
  have hstaged := stagedSlots_le f
  have hm := misses_le s f.page
  have hlt := f.nslot.isLt
  cases site with
  | stage j =>
    obtain ⟨-, hj⟩ : f.dir = true ∧ j ≤ f.nslot.toNat := hwf
    simp only [Site.tally, Site.failureTally, tallyMax, Prod.mk_add_mk, Prod.mk_le_mk]
    omega
  | select | addr =>
    simp only [Site.tally, Site.failureTally, tallyMax, Prod.mk_add_mk, Prod.mk_le_mk]
    omega
  | poll pend =>
    obtain ⟨hlen, -⟩ : pend.length < 5 ∧ ∀ w ∈ pend, pollComplete w = false := hwf
    simp only [Site.tally, Site.failureTally, tallyMax, Prod.mk_add_mk, Prod.mk_le_mk]
    omega
  | drain pend v words =>
    obtain ⟨hdir, ⟨hlen, -⟩, hwords⟩ : f.dir = false ∧ CompletesAfter pend v ∧ words.length ≤ f.nslot.toNat := hwf
    have hlen : pend.length < 5 := hlen
    have hread := stagedSlots_read hdir
    simp only [Site.tally, Site.failureTally, tallyMax, Prod.mk_add_mk, Prod.mk_le_mk]
    omega

/-- Wherever an access stands or is reset, it has made no more transactions than when the next one fails. -/
theorem tally_site_le {site : Site} (hwf : site.wf f) {tail : List BusEvent} (htail : tail = [] ∨ tail = [.rst]) :
    tally (site.trace f s ++ tail) ≤ tallyMax := by
  have hless : tally tail ≤ site.failureTally := calc
    tally tail ≤ (1, 0, 0, 0) := by rcases htail with rfl | rfl <;> decide
    _ ≤ site.failureTally := by cases site <;> simp [Site.failureTally]
  rw [tally_append, tally_trace]
  exact (add_le_add_right hless _).trans (failed_tally_le hwf)

theorem EndsOk.tally_eq {pend : List BusWord} {v : BusWord} {words : List BusWord} (h : EndsOk f s t pend v words) :
    tally (Site.trace f s (.drain pend v words)) =
      (f.nslot.toNat + 1 + s.misses f.page + 1 + (pend.length + 1), pend.length + 1, 1, s.misses f.page) := by
  have hcount := h.count
  have hslots : stagedSlots f + words.length = f.nslot.toNat + 1 := by
    rw [hcount, stagedSlots]
    split <;> simp
  rw [tally_trace]
  simp only [Site.tally, Prod.mk.injEq, and_true]
  omega

theorem EndsInTimeout.tally_eq {pend : List BusWord} (h : EndsInTimeout f s pend t) :
    tally (Site.trace f s (.poll pend)) = (stagedSlots f + s.misses f.page + 1 + 5, 5, 1, s.misses f.page) := by
  rw [tally_trace, Site.tally, show pend.length = 5 from h.length]

theorem Ending.tally_le (h : Ending f s t) (hnew : t.trace = s.trace ++ new) : tally new ≤ tallyMax := by
  have hm := misses_le s f.page
  have hlt := f.nslot.isLt
  have hstaged := stagedSlots_le f
  have hsame {l : List BusEvent} (hl : t.trace = s.trace ++ l) : new = l := List.append_cancel_left (hnew.symm.trans hl)
  cases h with
  | stands site h => simpa [hsame h.trace] using tally_site_le (s := s) h.wf (tail := []) (.inl rfl)
  | ok pend v words h =>
    obtain ⟨hlen, -⟩ := h.completes
    have hlen : pend.length < 5 := hlen
    rw [hsame h.trace, h.tally_eq]
    simp only [tallyMax, Prod.mk_le_mk]
    omega
  | transport site e h =>
    rw [hsame (h.trace.trans (List.append_assoc ..)), tally_failed]
    exact failed_tally_le h.wf
  | timeout pend h =>
    rw [hsame h.trace, h.tally_eq]
    simp only [tallyMax, Prod.mk_le_mk]
    omega
  | reset site h =>
    rw [hsame (h.trace.trans (List.append_assoc ..))]
    exact tally_site_le h.wf (.inr rfl)

/-! ## The table of R152 -/

/-- The rows of R152's table, of an access that made the transactions `new` and finished with `st`. -/
structure CountsTabled (f : CmdFields) (s : State) (st : Status) (new : List BusEvent) : Prop where
  ok : st = .ok → 1 ≤ new.countP BusEvent.polls ∧ new.countP BusEvent.polls ≤ 5 ∧
    new.length = f.nslot.toNat + 1 + s.misses f.page + 1 + new.countP BusEvent.polls
  timeout : st = .timeout → new.countP BusEvent.polls = 5 ∧ new.length = stagedSlots f + s.misses f.page + 1 + 5
  page : ∀ v e, new.getLast? = some (.wErr .page v e) → new.length = stagedSlots f + 1
  addr : ∀ v e, new.getLast? = some (.wErr .addr v e) → new.length = stagedSlots f + s.misses f.page + 1
  poll : ∀ e, new.getLast? = some (.rErr .addr e) → 1 ≤ new.countP BusEvent.polls ∧ new.countP BusEvent.polls ≤ 5 ∧
    new.length = stagedSlots f + s.misses f.page + 1 + new.countP BusEvent.polls
  stage : ∀ k v e, new.getLast? = some (.wErr (.data k) v e) → f.dir = true ∧ new.length = k.toNat + 1
  drain : ∀ k e, new.getLast? = some (.rErr (.data k) e) → f.dir = false ∧
    new.length = s.misses f.page + 1 + new.countP BusEvent.polls + k.toNat + 1

/-- Where nothing failed, only the rows of OK and TIMEOUT say anything. -/
theorem countsTabled_of_not_failed {st : Status} (hnew : ∀ e ∈ new, e.failed = false)
    (hok : st = .ok → 1 ≤ new.countP BusEvent.polls ∧ new.countP BusEvent.polls ≤ 5 ∧
      new.length = f.nslot.toNat + 1 + s.misses f.page + 1 + new.countP BusEvent.polls)
    (htime : st = .timeout → new.countP BusEvent.polls = 5 ∧ new.length = stagedSlots f + s.misses f.page + 1 + 5) :
    CountsTabled f s st new where
  ok := hok
  timeout := htime
  page _ _ hl := by cases hnew _ (List.mem_of_getLast? hl)
  addr _ _ hl := by cases hnew _ (List.mem_of_getLast? hl)
  poll _ hl := by cases hnew _ (List.mem_of_getLast? hl)
  stage _ _ _ hl := by cases hnew _ (List.mem_of_getLast? hl)
  drain _ _ hl := by cases hnew _ (List.mem_of_getLast? hl)

theorem tally_eq_iff {a b c d : Nat} : tally new = (a, b, c, d) ↔
    new.length = a ∧ new.countP BusEvent.polls = b ∧ new.countP (BusEvent.writes .addr) = c ∧
      new.countP (BusEvent.writes .page) = d := by
  simp [tally]

theorem EndsOk.countsTabled {pend : List BusWord} {v : BusWord} {words : List BusWord} (h : EndsOk f s t pend v words) :
    CountsTabled f s t.status (Site.trace f s (.drain pend v words)) := by
  obtain ⟨hlen, hpolls, -, -⟩ := tally_eq_iff.1 h.tally_eq
  have hbelow : pend.length < 5 := h.completes.1
  refine countsTabled_of_not_failed (fun _ => not_failed_of_mem_trace) (fun _ => ?_) fun hs => ?_
  · rw [hlen, hpolls]
    exact ⟨by omega, by omega, rfl⟩
  · cases h.status.symm.trans hs

theorem EndsInTimeout.countsTabled {pend : List BusWord} (h : EndsInTimeout f s pend t) :
    CountsTabled f s t.status (Site.trace f s (.poll pend)) := by
  obtain ⟨hlen, hpolls, -, -⟩ := tally_eq_iff.1 h.tally_eq
  refine countsTabled_of_not_failed (fun _ => not_failed_of_mem_trace) (fun hs => ?_) fun _ => ⟨hpolls, hlen⟩
  cases h.status.symm.trans hs

/-- After a transport error the last transaction says at which site, and each site has its row. -/
theorem EndsInError.countsTabled {site : Site} {e : ErrT} (h : EndsInError f s site e t) :
    CountsTabled f s t.status (site.trace f s ++ [site.failure f s e]) := by
  have hlast {x : BusEvent} (hx : (site.trace f s ++ [site.failure f s e]).getLast? = some x) : site.failure f s e = x := by
    simpa using hx
  have htally := tally_failed (f := f) (s := s) site e
  have hwf := h.wf
  constructor
  case ok =>
    intro hs
    cases h.status.symm.trans hs
  case timeout =>
    intro hs
    cases h.status.symm.trans hs
  case page =>
    intro v e' hx
    cases site with
    | select =>
      obtain ⟨hlen, -⟩ := tally_eq_iff.1 htally
      exact hlen
    | _ => cases hlast hx
  case addr =>
    intro v e' hx
    cases site with
    | addr =>
      obtain ⟨hlen, -⟩ := tally_eq_iff.1 htally
      exact hlen
    | _ => cases hlast hx
  case poll =>
    intro e' hx
    cases site with
    | poll pend =>
      obtain ⟨hlen, hpolls, -⟩ := tally_eq_iff.1 htally
      simp only [Site.tally, Site.failureTally] at hlen hpolls
      have hbelow : pend.length < 5 := hwf.1
      rw [hlen, hpolls]
      exact ⟨by omega, by omega, rfl⟩
    | _ => cases hlast hx
  case stage =>
    intro k v e' hx
    cases site with
    | stage j =>
      obtain ⟨hlen, -⟩ := tally_eq_iff.1 htally
      simp only [Site.tally, Site.failureTally] at hlen
      obtain ⟨hdir, hj⟩ : f.dir = true ∧ j ≤ f.nslot.toNat := hwf
      have hlt := f.nslot.isLt
      cases hlast hx
      rw [hlen, BitVec.toNat_ofNat]
      exact ⟨hdir, by omega⟩
    | _ => cases hlast hx
  case drain =>
    intro k e' hx
    cases site with
    | drain pend v words =>
      obtain ⟨hlen, hpolls, -⟩ := tally_eq_iff.1 htally
      simp only [Site.tally, Site.failureTally] at hlen hpolls
      obtain ⟨hdir, -, hwords⟩ : f.dir = false ∧ CompletesAfter pend v ∧ words.length ≤ f.nslot.toNat := hwf
      have hlt := f.nslot.isLt
      have hread := stagedSlots_read hdir
      cases hlast hx
      rw [hlen, hpolls, BitVec.toNat_ofNat]
      exact ⟨hdir, by omega⟩
    | _ => cases hlast hx

theorem Ending.countsTabled (h : Ending f s t) (hf : t.finished = true) (hnew : t.trace = s.trace ++ new) :
    CountsTabled f s t.status new := by
  obtain ⟨-, hdone⟩ : t.phase = .idle ∧ t.done = true := by simpa [State.finished] using hf
  have hsame {l : List BusEvent} (hl : t.trace = s.trace ++ l) : new = l := List.append_cancel_left (hnew.symm.trans hl)
  cases h with
  | stands site h => simp [h.done] at hdone
  | ok pend v words h => exact hsame h.trace ▸ h.countsTabled
  | transport site e h => exact hsame (h.trace.trans (List.append_assoc ..)) ▸ h.countsTabled
  | timeout pend h => exact hsame h.trace ▸ h.countsTabled
  | reset site h => simp [h.done] at hdone

/-- Settles O38: the bounds hold wherever an access stands or ended, and the table of how it ended (R152). -/
theorem transactionCountsAsTabled : Obligations.TransactionCountsAsTabled := by
  intro s i f hf hready
  obtain ⟨t, hexec, hend⟩ := exec_endings hf hready
  obtain ⟨new, htrace, -⟩ := hend.accessTrace
  obtain ⟨htotal, -, haddr, hpage⟩ := hend.tally_le htrace
  refine ⟨t, new, hexec, htrace, htotal, haddr, hpage, fun hfin => ?_⟩
  obtain ⟨hok, htimeout, hpage, haddr, hpoll, hstage, hdrain⟩ := hend.countsTabled hfin htrace
  exact ⟨hok, htimeout, hpage, haddr, hpoll, hstage, hdrain⟩

end Sys2Proof.Machine
end

section
/-!
The read commands on an environment that answers: run_op, then the slots in ascending order, to the finished read or to the slot
read that fails (R161 to R167) (O24, O25, O26, O27, O28, O35).
-/
namespace Sys2Proof.Machine

variable {f : CmdFields} {s : State} {i : Instr} {pend words : List BusWord} {x y v : BusWord} {rest : List EnvEvent}

/-! ## Up to the drain -/

/-- The access of a read `f` accepted in `s` after its run_op and the reads of `words`: in DRAIN, before the next slot. -/
def State.drainingRead (s : State) (f : CmdFields) (pend : List BusWord) (v : BusWord) (words : List BusWord)
    (rest : List EnvEvent) : State :=
  { accept f s with
    cache := ⟨true, f.page⟩, phase := .drain, slotIdx := BitVec.ofNat 3 words.length
    pollCnt := BitVec.ofNat 3 pend.length, acc := assembled words, sleeps := s.sleeps + pend.length
    trace := s.trace ++ s.runOpTrace f.page f.reg Config.opRead pend v ++ drainedTrace words, env := rest }

/-- Whatever answers run_op takes, the first of them is at hand at the accept (R40). -/
theorem cmdReady_of_runOpAnswers {p : Page} (hp : s.phase = .idle) (he : s.env = s.runOpAnswers p x y pend v ++ rest) :
    s.cmdReady = true := by
  by_cases hc : s.cache = ⟨true, p⟩
  · exact cmdReady_answered (a := .ok y) (rest := oks (pend ++ [v]) ++ rest) hp
      (by simp [he, State.runOpAnswers, State.selectAnswer, hc, oks])
  · exact cmdReady_answered (a := .ok x) (rest := oks (y :: pend ++ [v]) ++ rest) hp
      (by simp [he, State.runOpAnswers, State.selectAnswer, hc, oks])

/-- A read whose run_op succeeds goes on to drain into an empty value (R161). -/
theorem access_drains (hd : f.dir = false) (hp : s.phase = .idle) (hc : CompletesAfter pend v)
    (he : s.env = s.runOpAnswers f.page x y pend v ++ rest) :
    access f s = runRows (8 - pend.length) (s.drainingRead f pend v [] rest) := by
  have hlen : pend.length < 5 := hc.1
  have hfuel : Config.maxRows = 8 - pend.length + (pend.length + 3) := by simp only [Config.maxRows]; omega
  rw [access_ready (cmdReady_of_runOpAnswers hp he), hfuel,
    runRows_runOp (s := accept f s) (x := x) (y := y) (v := v) (rest := rest) (by simp [hd]) hc
      (by simpa [State.runOpAnswers, State.selectAnswer] using he)]
  simp [State.drainingRead, pollDone, hd, State.runOpTrace, State.selectTrace, opcodeOf]

/-- The slots below the last one are read into their places (R161); the 8-bit width has none. -/
theorem runRows_drainingRead (words : List BusWord) : ∀ {n : Nat} {done : List BusWord}, (words ≠ [] → f.byte = false) →
    done.length + words.length ≤ f.nslot.toNat →
    runRows (n + words.length) (s.drainingRead f pend v done (oks words ++ rest)) =
      runRows n (s.drainingRead f pend v (done ++ words) rest) := by
  induction words with
  | nil => simp [oks]
  | cons w words ih =>
    intro n done hbyte hle
    have hlt := f.nslot.isLt
    have hbyte : f.byte = false := hbyte (by simp)
    rw [List.length_cons] at hle ⊢
    have hnext : BitVec.ofNat 3 done.length + 1 = BitVec.ofNat 3 (done.length + 1) := by rw [BitVec.ofNat_add]; rfl
    have hmore : BitVec.ofNat 3 done.length + 1 ≠ (s.drainingRead f pend v done (oks (w :: words) ++ rest)).nslots := by
      rw [hnext, Ne, ← BitVec.toNat_inj, toNat_nslots, BitVec.toNat_ofNat]
      simp [State.drainingRead]
      omega
    have hrow : runRows (n + (words.length + 1)) (s.drainingRead f pend v done (oks (w :: words) ++ rest)) =
        runRows (n + words.length) (s.drainingRead f pend v (done ++ [w]) (oks words ++ rest)) := by
      rw [← Nat.add_assoc, runRows_drain_slot rfl (by simpa [State.drainingRead] using hbyte) rfl hmore]
      simp [State.drainingRead, assembled_append, drainedTrace_append, BitVec.ofNat_add, oks]
    rw [hrow, ih (fun _ => hbyte) (by rw [List.length_append, List.length_singleton]; omega)]
    simp

/-- The 8-bit width has one slot (R104). -/
theorem eq_nil_of_byte (hlegal : f.legal = true) (hb : f.byte = true) (hle : words.length ≤ f.nslot.toNat) :
    words = [] := by
  have hnslot : f.nslot = 0 := (f.legal_iff.1 hlegal).2 hb
  exact List.length_eq_zero_iff.1 (by simpa [hnslot] using hle)

/-- A read whose run_op and first slot reads succeed (R161). -/
theorem access_drainingRead (hlegal : f.legal = true) (hd : f.dir = false) (hp : s.phase = .idle)
    (hc : CompletesAfter pend v) (hle : words.length ≤ f.nslot.toNat)
    (he : s.env = s.runOpAnswers f.page x y pend v ++ oks words ++ rest) :
    ∃ n, access f s = runRows (n + 1) (s.drainingRead f pend v words rest) := by
  have hlen : pend.length < 5 := hc.1
  have hlt := f.nslot.isLt
  have hbyte : words ≠ [] → f.byte = false := fun hne =>
    Bool.eq_false_iff.2 fun hb => hne (eq_nil_of_byte hlegal hb hle)
  refine ⟨7 - pend.length - words.length, ?_⟩
  rw [access_drains (rest := oks words ++ rest) hd hp hc (by simpa using he),
    show 8 - pend.length = 7 - pend.length - words.length + 1 + words.length by omega]
  exact runRows_drainingRead words hbyte (by simpa using hle)

/-! ## A finished read -/

/-- The value a read of these slot words returns (R161, R163). -/
def readValue (f : CmdFields) (words : List BusWord) : Value :=
  if f.byte then byteOfSlot (words.headD 0) else assembled words

/-- A read that is answered ok throughout (R161). -/
theorem access_read (hlegal : f.legal = true) (hd : f.dir = false) (hp : s.phase = .idle) (hc : CompletesAfter pend v)
    (hlen : words.length = f.nslot.toNat + 1) (he : s.env = s.runOpAnswers f.page x y pend v ++ oks words ++ rest) :
    access f s = finishRead { s.drainingRead f pend v words rest with acc := readValue f words } := by
  obtain ⟨front, w, rfl⟩ : ∃ front w, words = front ++ [w] :=
    ⟨_, _, (List.dropLast_append_getLast (by rintro rfl; simp at hlen)).symm⟩
  have hfront : front.length = f.nslot.toNat := by simpa using hlen
  obtain ⟨n, hrun⟩ := access_drainingRead (words := front) (rest := oks [w] ++ rest) hlegal hd hp hc hfront.le
    (by simpa [oks] using he)
  rw [hrun]
  cases hb : f.byte with
  | true =>
    obtain rfl := eq_nil_of_byte hlegal hb hfront.le
    rw [runRows_drain_byte rfl (by simpa [State.drainingRead] using hb) rfl]
    simp [State.drainingRead, readValue, hb, drainedTrace]
  | false =>
    have hlast : BitVec.ofNat 3 front.length + 1 = (s.drainingRead f pend v front (oks [w] ++ rest)).nslots := by
      rw [← BitVec.toNat_inj, toNat_nslots, hfront]
      have hlt := f.nslot.isLt
      simp [State.drainingRead]
      omega
    rw [runRows_drain_last rfl (by simpa [State.drainingRead] using hb) rfl hlast]
    simp [State.drainingRead, readValue, hb, assembled_append, drainedTrace_append, BitVec.ofNat_add]

/-- What a read command that is answered ok throughout leaves (R161, R31). -/
theorem exec_read {value : Value} (hi : i.fields? = some f) (hd : f.dir = false) (hlen : words.length = f.nslot.toNat + 1)
    (hv : readValue f words = value) (hp : s.phase = .idle) (hc : CompletesAfter pend v)
    (he : s.env = s.runOpAnswers f.page x y pend v ++ oks words ++ rest) :
    ∃ t, exec i s = .next t ∧ s.finishedFrom t f .ok ∧ t.rdata = value ∧ t.cache = ⟨true, f.page⟩ ∧ t.env = rest ∧
      t.trace = s.trace ++ s.runOpTrace f.page f.reg 0x0002#16 pend v ++ drainedTrace words ∧
      t.slotIdx = BitVec.ofNat 3 words.length ∧ t.pollCnt.toNat = pend.length ∧ t.sleeps = s.sleeps + pend.length := by
  have hpend : pend.length < 5 := hc.1
  refine ⟨_, (exec_command hi s).trans (congrArg _ (access_read (legal_of_fields hi) hd hp hc hlen he)), ?_⟩
  refine ⟨by simp [State.finishedFrom, State.holds, State.drainingRead], hv, rfl, rfl, rfl, rfl, ?_, rfl⟩
  simp [State.drainingRead]
  omega

/-- Settles O24: read8 is a read of one slot, of which it returns the low byte. -/
theorem read8Result : Obligations.Read8Result :=
  fun _ page reg _ _ _ _ v0 _ hp hc he => exec_read (i := .read8 page reg) (words := [v0]) rfl rfl rfl rfl hp hc he

/-- Settles O25: read16 is a read of one slot. -/
theorem read16Result : Obligations.Read16Result :=
  fun _ page reg _ _ _ _ v0 _ hp hc he =>
    exec_read (i := .read16 page reg) (words := [v0]) rfl rfl rfl (placeSlot_one v0) hp hc he

/-- Settles O26: read32 is a read of two slots. -/
theorem read32Result : Obligations.Read32Result :=
  fun _ page reg _ _ _ _ v0 v1 _ hp hc he =>
    exec_read (i := .read32 page reg) (words := [v0, v1]) rfl rfl rfl (placeSlot_two v0 v1) hp hc he

/-- Settles O27: read48 is a read of three slots. -/
theorem read48Result : Obligations.Read48Result :=
  fun _ page reg _ _ _ _ v0 v1 v2 _ hp hc he =>
    exec_read (i := .read48 page reg) (words := [v0, v1, v2]) rfl rfl rfl (placeSlot_three v0 v1 v2) hp hc he

/-- Settles O28: read64 is a read of four slots. -/
theorem read64Result : Obligations.Read64Result :=
  fun _ page reg _ _ _ _ v0 v1 v2 v3 _ hp hc he =>
    exec_read (i := .read64 page reg) (words := [v0, v1, v2, v3]) rfl rfl rfl (placeSlot_four v0 v1 v2 v3) hp hc he

/-! ## A slot read that fails -/

/-- In DRAIN a slot read answered err ends the read (R162); the 8-bit width reads slot 0. -/
theorem runRows_drain_err {n : Nat} {e : ErrT} (hp : s.phase = .drain) (hb : s.lByte = true → s.slotIdx = 0)
    (he : s.env = .rsp (.err e) :: rest) :
    runRows (n + 1) s =
      raise (.transport e) { s with env := rest, trace := s.trace ++ [.rErr (.data s.slotIdx) e] } := by
  have hrow : drainRow s =
      raise (.transport e) { s with env := rest, trace := s.trace ++ [.rErr (.data s.slotIdx) e] } := by
    by_cases hbyte : s.lByte = true
    · rw [drainRow_byte hbyte, drainByte, busRead_err he, hb hbyte]
    · rw [drainRow_slot (Bool.eq_false_iff.2 hbyte), drainSlot, busRead_err he]
  rw [runRows_row _ (by simp [hp]) (waiting_answered he), sequencerRow_drain hp, hrow, runRows_idle _ rfl]

/-- Settles O35: the reads before it succeed, and the failed one raises TransportError, which keeps everything else named. -/
theorem drainFailureEndsRead : Obligations.DrainFailureEndsRead := by
  intro s i f x y pend v drained e rest hi hd hp hc hle he
  have hlegal := legal_of_fields hi
  obtain ⟨n, hrun⟩ := access_drainingRead hlegal hd hp hc hle he
  rw [runRows_drain_err rfl (fun hb => ?_) rfl] at hrun
  · refine ⟨_, drainedTrace drained, (exec_command hi s).trans (congrArg _ hrun), ?_⟩
    refine ⟨by simp [State.finishedFrom, State.holds, State.drainingRead, ErrorKind.status], rfl, rfl, rfl, ?_, ?_, ?_, rfl⟩
    · have hlt := f.nslot.isLt
      simp [State.drainingRead]
      omega
    · simp [drainedTrace]
    · intro k hk
      have hk' : k < drained.length := by simpa [drainedTrace] using hk
      exact ⟨drained[k], List.getElem?_eq_getElem hk', by simp [drainedTrace]⟩
  · have hbyte : f.byte = true := by simpa [State.drainingRead] using hb
    obtain rfl := eq_nil_of_byte hlegal hbyte hle
    rfl

end Sys2Proof.Machine
end

section
/-!
The 8-bit commands against the 16-bit ones (R163, R164, R183, R184): the two accesses run the same rows on states that differ in
L_BYTE and in what a read assembles, and a read's last row places the low byte or the whole word of one slot (O54).
-/
namespace Sys2Proof.Machine

variable {s t u : State}

/-! ## States that differ in the result -/

/-- Another L_BYTE, another value assembled, another RDATA. -/
def State.withResult (byte : Bool) (acc rdata : Value) (s : State) : State :=
  { s with lByte := byte, acc := acc, rdata := rdata }

/-- `u` is `t` but for L_BYTE, the value being assembled, and RDATA. -/
def SameButResult (t u : State) : Prop :=
  ∃ byte acc rdata, u = t.withResult byte acc rdata

theorem SameButResult.phase_eq (h : SameButResult t u) : u.phase = t.phase := by
  obtain ⟨b, a, d, rfl⟩ := h
  rfl

theorem SameButResult.waiting_eq (h : SameButResult t u) : u.waiting = t.waiting := by
  obtain ⟨b, a, d, rfl⟩ := h
  rfl

/-- The two states make one bus write, and its answer keeps them so. -/
theorem busWrite_sameButResult {r : BusReg} {w : BusWord} {k k' : State → State} (h : SameButResult t u)
    (hk : ∀ env trace, SameButResult (k { t with env := env, trace := trace }) (k' { u with env := env, trace := trace })) :
    SameButResult (busWrite r w k t) (busWrite r w k' u) := by
  obtain ⟨b, a, d, rfl⟩ := h
  rcases he : t.env with _ | ⟨(x | e) | _ | _, rest⟩
  · rw [busWrite_nil he, busWrite_nil (by exact he)]
    exact ⟨b, a, d, rfl⟩
  · rw [busWrite_ok he, busWrite_ok (by exact he)]
    exact hk _ _
  · rw [busWrite_err he, busWrite_err (by exact he)]
    exact ⟨_, _, _, rfl⟩
  · rw [busWrite_silent he, busWrite_silent (by exact he)]
    exact ⟨b, a, d, rfl⟩
  · rw [busWrite_rst he, busWrite_rst (by exact he)]
    exact ⟨_, _, _, rfl⟩

/-- The two states make one bus read, and its answer keeps them so. -/
theorem busRead_sameButResult {r : BusReg} {k k' : BusWord → State → State} (h : SameButResult t u)
    (hk : ∀ v env trace, SameButResult (k v { t with env := env, trace := trace })
      (k' v { u with env := env, trace := trace })) :
    SameButResult (busRead r k t) (busRead r k' u) := by
  obtain ⟨b, a, d, rfl⟩ := h
  rcases he : t.env with _ | ⟨(x | e) | _ | _, rest⟩
  · rw [busRead_nil he, busRead_nil (by exact he)]
    exact ⟨b, a, d, rfl⟩
  · rw [busRead_ok he, busRead_ok (by exact he)]
    exact hk _ _ _
  · rw [busRead_err he, busRead_err (by exact he)]
    exact ⟨_, _, _, rfl⟩
  · rw [busRead_silent he, busRead_silent (by exact he)]
    exact ⟨b, a, d, rfl⟩
  · rw [busRead_rst he, busRead_rst (by exact he)]
    exact ⟨_, _, _, rfl⟩

/-! ## The rows of R150 on two such states -/

theorem stageRow_sameButResult (h : SameButResult t u) : SameButResult (stageRow t) (stageRow u) := by
  obtain ⟨b, a, d, rfl⟩ := h
  refine busWrite_sameButResult ⟨b, a, d, rfl⟩ fun env trace => ?_
  exact ⟨b, a, d, rfl⟩

theorem selectRow_sameButResult (h : SameButResult t u) : SameButResult (selectRow t) (selectRow u) := by
  obtain ⟨b, a, d, rfl⟩ := h
  cases hc : t.cacheHit t.lPage with
  | true =>
    rw [selectRow_hit hc, selectRow_hit (by exact hc)]
    exact ⟨b, a, d, rfl⟩
  | false =>
    rw [selectRow_miss hc, selectRow_miss (by exact hc)]
    refine busWrite_sameButResult ⟨b, a, d, rfl⟩ fun env trace => ?_
    exact ⟨b, a, d, rfl⟩

theorem addrRow_sameButResult (h : SameButResult t u) : SameButResult (addrRow t) (addrRow u) := by
  obtain ⟨b, a, d, rfl⟩ := h
  unfold addrRow addrWrite
  refine busWrite_sameButResult ⟨b, a, d, rfl⟩ fun env trace => ?_
  exact ⟨b, a, d, rfl⟩

theorem pollDone_sameButResult (h : SameButResult t u) : SameButResult (pollDone t) (pollDone u) := by
  obtain ⟨b, a, d, rfl⟩ := h
  cases hd : t.lDir with
  | true =>
    rw [pollDone, pollDone, if_pos hd, if_pos (by exact hd)]
    exact ⟨_, _, _, rfl⟩
  | false =>
    rw [pollDone, pollDone, if_neg (by simp [hd]), if_neg (by simpa [State.withResult] using hd)]
    exact ⟨_, _, _, rfl⟩

theorem pollPending_sameButResult (h : SameButResult t u) : SameButResult (pollPending t) (pollPending u) := by
  obtain ⟨b, a, d, rfl⟩ := h
  by_cases hb : t.pollCnt.toNat + 1 < Config.pollMax
  · rw [pollPending_below hb, pollPending_below (by exact hb)]
    exact ⟨b, a, d, rfl⟩
  · rw [pollPending_last hb, pollPending_last (by exact hb)]
    exact ⟨_, _, _, rfl⟩

theorem pollRow_sameButResult (h : SameButResult t u) : SameButResult (pollRow t) (pollRow u) := by
  refine busRead_sameButResult h fun v env trace => ?_
  have hbus : SameButResult { t with env := env, trace := trace } { u with env := env, trace := trace } := by
    obtain ⟨b, a, d, rfl⟩ := h
    exact ⟨b, a, d, rfl⟩
  cases pollComplete v with
  | true => exact pollDone_sameButResult hbus
  | false => exact pollPending_sameButResult hbus

/-- R163, R164: DRAIN reads slot 0, the only slot of both widths. -/
theorem drainRow_sameButResult (h : SameButResult t u) (ht : t.lByte = true) (hu : u.lByte = false)
    (hslot : u.slotIdx = 0) (hnslots : u.nslots = 1) : SameButResult (drainRow t) (drainRow u) := by
  rw [drainRow_byte ht, drainRow_slot hu, drainByte, drainSlot, hslot]
  refine busRead_sameButResult h fun v env trace => ?_
  have hlast : u.slotIdx + 1 = u.nslots := by rw [hslot, hnslots]; rfl
  obtain ⟨b, a, d, rfl⟩ := h
  refine ⟨b, placeSlot a t.slotIdx v, placeSlot a t.slotIdx v, (if_pos (by exact hlast)).trans ?_⟩
  have hzero : t.slotIdx = 0 := hslot
  simp [finishRead, State.finish, State.withResult, hzero]

/-! ## The two accesses side by side -/

/-- An access that drains reads a slot of the command (R161). -/
theorem Ending.draining {f : CmdFields} (h : Ending f s t) (hp : t.phase = .drain) :
    t.holds f ∧ t.slotIdx.toNat ≤ f.nslot.toNat := by
  cases h with
  | stands site h =>
    cases site with
    | drain pend v words =>
      obtain ⟨-, -, hle⟩ := h.wf
      obtain ⟨-, hslot, -⟩ := h.counters
      refine ⟨h.carries.holds, ?_⟩
      rw [hslot, BitVec.toNat_ofNat]
      exact (Nat.mod_le _ _).trans hle
    | _ => cases h.phase.symm.trans hp
  | ok _ _ _ h | transport _ _ h | timeout _ h | reset _ h => cases h.phase.symm.trans hp

/-- An access of one slot, by its direction, its width (true is 8 bits, false 16) and its address (R103). -/
def oneSlotFields (dir byte : Bool) (page : Page) (reg : LReg) : CmdFields :=
  ⟨0, dir, byte, 0, page, reg⟩

/-- The 8-bit access and the 16-bit access of one direction, accepted in `s`. -/
structure ByteBesideWord (dir : Bool) (page : Page) (reg : LReg) (s t u : State) : Prop where
  byte : Ending (oneSlotFields dir true page reg) s t
  word : Ending (oneSlotFields dir false page reg) s u
  same : SameButResult t u

variable {dir : Bool} {page : Page} {reg : LReg}

theorem oneSlotFields_legal (dir byte : Bool) (page : Page) (reg : LReg) : (oneSlotFields dir byte page reg).legal = true :=
  (CmdFields.legal_iff _).2 ⟨rfl, fun _ => rfl⟩

/-- A row takes the two accesses on. -/
theorem ByteBesideWord.row (h : ByteBesideWord dir page reg s t u) :
    ByteBesideWord dir page reg s (sequencerRow t) (sequencerRow u) where
  byte := sequencerRow_ending (oneSlotFields_legal ..) h.byte
  word := sequencerRow_ending (oneSlotFields_legal ..) h.word
  same := by
    have hphase := h.same.phase_eq
    cases hp : t.phase with
    | idle => rw [sequencerRow_idle hp, sequencerRow_idle (hphase.trans hp)]; exact h.same
    | stage => rw [sequencerRow_stage hp, sequencerRow_stage (hphase.trans hp)]; exact stageRow_sameButResult h.same
    | select => rw [sequencerRow_select hp, sequencerRow_select (hphase.trans hp)]; exact selectRow_sameButResult h.same
    | addr => rw [sequencerRow_addr hp, sequencerRow_addr (hphase.trans hp)]; exact addrRow_sameButResult h.same
    | poll => rw [sequencerRow_poll hp, sequencerRow_poll (hphase.trans hp)]; exact pollRow_sameButResult h.same
    | drain =>
      obtain ⟨⟨-, hbyte, -⟩, -⟩ := h.byte.draining hp
      obtain ⟨hholds, hslot⟩ := h.word.draining (hphase.trans hp)
      have hnslots : u.nslots = 1 := nslots_toNat hholds
      obtain ⟨-, hword, -⟩ := hholds
      rw [sequencerRow_drain hp, sequencerRow_drain (hphase.trans hp)]
      exact drainRow_sameButResult h.same hbyte hword (BitVec.eq_of_toNat_eq (Nat.le_zero.1 hslot)) hnslots

/-- The two accesses, accepted, on any environment. -/
theorem access_byteBesideWord (hready : s.cmdReady = true) : ByteBesideWord dir page reg s
    (access (oneSlotFields dir true page reg) s) (access (oneSlotFields dir false page reg) s) := by
  rw [access_ready hready, access_ready hready]
  have hstart : ByteBesideWord dir page reg s
      (accept (oneSlotFields dir true page reg) s) (accept (oneSlotFields dir false page reg) s) := by
    refine ⟨.stands _ accept_stands, .stands _ accept_stands, false, s.acc, Config.freeRdata s.draws, ?_⟩
    cases hprog : s.program <;> cases dir <;>
      simp [accept, acceptFields, State.presentNext, State.latch, State.withResult, oneSlotFields, hprog]
  exact runRows_induct₂ (ByteBesideWord dir page reg s) (fun t u h => h.same.phase_eq) (fun t u h => h.same.waiting_eq)
    (fun t u h => h.row) _ _ _ hstart

/-- The same where the block is not ready: neither access is accepted (R40). -/
theorem access_sameButResult (s : State) : SameButResult
    (access (oneSlotFields dir true page reg) s) (access (oneSlotFields dir false page reg) s) := by
  cases hready : s.cmdReady with
  | true => exact (access_byteBesideWord hready).same
  | false =>
    rw [access_not_ready hready, access_not_ready hready]
    exact ⟨s.lByte, s.acc, s.rdata, rfl⟩

/-! ## The value of one slot -/

/-- R163: the low byte of the slot, which is the 16-bit value masked. -/
theorem byteOfSlot_eq_and (w : BusWord) : byteOfSlot w = w.setWidth 64 &&& 0xFF := by
  apply BitVec.eq_of_toNat_eq
  rw [BitVec.toNat_and, show (0xFF : Value).toNat = 2 ^ 8 - 1 from rfl, Nat.and_two_pow_sub_one_eq_mod]
  simp [byteOfSlot]
  omega

/-- A finished one-slot read, by the word its last transaction returned. -/
theorem EndsOk.oneSlot {f : CmdFields} {pend words : List BusWord} {v : BusWord} (h : EndsOk f s t pend v words)
    (hd : f.dir = false) (hn : f.nslot = 0) : ∃ w, t.trace.getLast? = some (.r (.data 0) w) ∧
      t.rdata = if f.byte then byteOfSlot w else w.setWidth 64 := by
  obtain ⟨w, rfl⟩ : ∃ w, words = [w] := List.length_eq_one_iff.1 (by simpa [hd, hn] using h.count)
  refine ⟨w, ?_, ?_⟩
  · rw [h.trace, ← List.nil_append [w], drain_append_trace, ← List.append_assoc, List.getLast?_concat]
    rfl
  · rw [h.rdata hd, ← placeSlot_one]
    rfl

/-- When both reads finish with OK they return one slot word, the 8-bit read masked (R163, R164). -/
theorem ByteBesideWord.rdata_eq (h : ByteBesideWord false page reg s t u) (hf : u.finished = true) (hok : u.status = .ok) :
    t.rdata = u.rdata &&& 0xFF := by
  obtain ⟨_, _, _, hword⟩ := h.word.endsOk hf hok
  obtain ⟨b, a, d, rfl⟩ := h.same
  obtain ⟨_, _, _, hbyte⟩ := h.byte.endsOk hf hok
  obtain ⟨w, hw, hwr⟩ := hword.oneSlot rfl rfl
  obtain ⟨w', hw', hbr⟩ := hbyte.oneSlot rfl rfl
  cases hw.symm.trans hw'
  exact hbr.trans ((byteOfSlot_eq_and w).trans (congrArg (· &&& 0xFF) hwr.symm))

/-- Settles O54: the two accesses differ in L_BYTE and the value alone, and the statement names of these the reads' value. -/
theorem byteAccessIsWordAccessMasked : Obligations.ByteAccessIsWordAccessMasked := by
  intro s page reg
  have hsame (dir : Bool) := access_sameButResult (dir := dir) (page := page) (reg := reg) s
  constructor
  · obtain ⟨b, a, d, hu⟩ := hsame false
    refine ⟨_, _, rfl, congrArg Host.Outcome.next hu, rfl, rfl, rfl, rfl, rfl, rfl, rfl, fun hready hf hok => ?_⟩
    have hrdata := (access_byteBesideWord (page := page) (reg := reg) hready).rdata_eq
    rw [hu] at hrdata
    exact hrdata hf hok
  · obtain ⟨b, a, d, hu⟩ := hsame true
    exact ⟨_, _, rfl, congrArg Host.Outcome.next hu, rfl, rfl, rfl, rfl, rfl, rfl, rfl⟩

end Sys2Proof.Machine
end

section
/-!
The rows of R150 against the pseudocode of R130, R140 and R161 (R151): while an access is in flight the pseudocode has seen the
same bus, and each sub-operation is the rows of its phases, whatever it returns (O55).
-/
namespace Sys2Proof.Machine

variable {f : CmdFields} {old : List BusEvent} {w : World} {s t : State} {n : Nat}
variable {α β γ : Type} {post : β → State → Prop}

/-! ## The pseudocode beside the rows -/

/-- R15: a chain of sub-operations, either way it is read. -/
theorem andThen_assoc (x : Result α × World) (g : α → World → Result β × World) (h : β → World → Result γ × World) :
    andThen (andThen x g) h = andThen x fun a u => andThen (g a u) h := by
  rcases x with ⟨_ | _ | _ | _, u⟩ <;> rfl

/-- The block and the pseudocode have seen the same of the bus, where the trace before the access is `old`. -/
structure SameBus (old : List BusEvent) (w : World) (t : State) : Prop where
  trace : t.trace = old ++ w.trace
  cache : t.cache = w.cache
  env : t.env = answered w.answers

/-- The access of `f` is in flight, the pseudocode beside it. -/
structure InFlight (f : CmdFields) (old : List BusEvent) (w : World) (t : State) : Prop where
  bus : SameBus old w t
  holds : t.holds f
  done : t.done = false

/-- What the block comes to where the pseudocode returns this: `post` on a value, else the error (R202), or still in flight. -/
def Result.Meets (post : α → State → Prop) (t : State) : Result α → Prop
  | .ok a => post a t
  | .transport e => t.finished = true ∧ t.status = .transport ∧ t.errInfo = e
  | .timeout => t.finished = true ∧ t.status = .timeout
  | .unanswered => t.busy = true ∧ t.done = false

/-- The block comes to what the pseudocode returns, on the same bus. -/
structure Yields (old : List BusEvent) (post : α → State → Prop) (x : Result α × World) (t : State) : Prop where
  bus : SameBus old x.2 t
  result : x.1.Meets post t

/-- The value alone worked on once more (R161). -/
theorem Yields.map {x : Result α × World} {k : α → β} (h : Yields old (fun a => post (k a)) x t) :
    Yields old post (andThen x fun a u => (.ok (k a), u)) t := by
  rcases x with ⟨_ | _ | _ | _, u⟩ <;> exact ⟨h.bus, h.result⟩

/-! ## One transaction -/

/-- No answer is left: the access waits in flight (R46). -/
theorem InFlight.yields_unanswered (h : InFlight f old w t) (ht : t.pendingTransaction ≠ none) (hw : w.answers = []) :
    Yields old post (.unanswered, w) (runRows (n + 1) t) := by
  rw [runRows_nil n (by rw [h.bus.env, hw]; rfl) ht]
  exact ⟨h.bus, by simpa [State.busy] using phase_ne_idle_of_pending ht, h.done⟩

/-- The transaction failed: the access has ended with TransportError (R221). -/
theorem InFlight.yields_raise (h : InFlight f old w t) {e : ErrT} {x : BusEvent} {rest : List BusRsp} :
    Yields old post (.transport e, { w with answers := rest, trace := w.trace ++ [x] })
      (raise (.transport e) { t with env := answered rest, trace := t.trace ++ [x] }) :=
  ⟨⟨by simp [h.bus.trace], h.bus.cache, rfl⟩, rfl, rfl, rfl⟩

/-- The same access after one more transaction on the bus. -/
theorem InFlight.after_transaction (h : InFlight f old w t) (x : BusEvent) (rest : List BusRsp) :
    InFlight f old { w with answers := rest, trace := w.trace ++ [x] }
      { t with env := answered rest, trace := t.trace ++ [x] } :=
  ⟨⟨by simp [h.bus.trace], h.bus.cache, rfl⟩, h.holds, h.done⟩

/-- A row that is a bus write, and the pseudocode's bus write: both go on from an answer ok. -/
theorem InFlight.yields_busWrite {r : BusReg} {v : BusWord} {k : State → State} {g : Unit → World → Result β × World}
    (h : InFlight f old w t) (ht : t.pendingTransaction ≠ none) (hrow : sequencerRow t = busWrite r v k t)
    (hk : ∀ w' env trace, InFlight f old w' { t with env := env, trace := trace } →
      Yields old post (g () w') (runRows n (k { t with env := env, trace := trace }))) :
    Yields old post (andThen (w.busWrite r v) g) (runRows (n + 1) t) := by
  rcases hw : w.answers with _ | ⟨_ | e, rest⟩
  · rw [World.busWrite, hw]
    exact h.yields_unanswered ht hw
  · have he : t.env = _ := h.bus.env.trans (congrArg _ hw)
    rw [World.busWrite, hw, runRows_row n (phase_ne_idle_of_pending ht) (waiting_answered he), hrow, busWrite_ok he]
    exact hk _ _ _ (h.after_transaction _ rest)
  · have he : t.env = _ := h.bus.env.trans (congrArg _ hw)
    rw [World.busWrite, hw, runRows_row n (phase_ne_idle_of_pending ht) (waiting_answered he), hrow, busWrite_err he,
      runRows_idle n rfl]
    exact h.yields_raise

/-- A row that is a bus read, and the pseudocode's bus read: both go on with the word that was read. -/
theorem InFlight.yields_busRead {r : BusReg} {k : BusWord → State → State} {g : BusWord → World → Result β × World}
    (h : InFlight f old w t) (ht : t.pendingTransaction ≠ none) (hrow : sequencerRow t = busRead r k t)
    (hk : ∀ v w' env trace, InFlight f old w' { t with env := env, trace := trace } →
      Yields old post (g v w') (runRows n (k v { t with env := env, trace := trace }))) :
    Yields old post (andThen (w.busRead r) g) (runRows (n + 1) t) := by
  rcases hw : w.answers with _ | ⟨v | e, rest⟩
  · rw [World.busRead, hw]
    exact h.yields_unanswered ht hw
  · have he : t.env = _ := h.bus.env.trans (congrArg _ hw)
    rw [World.busRead, hw, runRows_row n (phase_ne_idle_of_pending ht) (waiting_answered he), hrow, busRead_ok he]
    exact hk v _ _ _ (h.after_transaction _ rest)
  · have he : t.env = _ := h.bus.env.trans (congrArg _ hw)
    rw [World.busRead, hw, runRows_row n (phase_ne_idle_of_pending ht) (waiting_answered he), hrow, busRead_err he,
      runRows_idle n rfl]
    exact h.yields_raise

/-! ## The sub-operations of run_op (R130, R140) -/

variable {g : Unit → World → Result β × World}

/-- select_page is the SELECT row (R130, R131, R132). -/
theorem InFlight.yields_selectPage (h : InFlight f old w t) (hp : t.phase = .select)
    (hk : ∀ w' u, InFlight f old w' u → u.phase = .addr → Yields old post (g () w') (runRows n u)) :
    Yields old post (andThen (w.selectPage f.page) g) (runRows (n + 1) t) := by
  obtain ⟨-, -, -, hpage, -⟩ := h.holds
  by_cases hc : t.cache = ⟨true, t.lPage⟩
  · have hw : w.cache.valid = true ∧ w.cache.page = f.page := by rw [← h.bus.cache, hc]; exact ⟨rfl, hpage⟩
    rw [World.selectPage, if_pos hw, runRows_select_hit hp hc]
    exact hk w _ ⟨⟨h.bus.trace, h.bus.cache, h.bus.env⟩, h.holds, h.done⟩ rfl
  · have hmiss : t.cacheHit t.lPage = false := Bool.eq_false_iff.2 fun hit => hc ((cacheHit_iff t _).1 hit)
    have hw : ¬(w.cache.valid = true ∧ w.cache.page = f.page) := by
      rw [← h.bus.cache, ← hpage]
      simpa [State.cacheHit] using hmiss
    rw [World.selectPage, if_neg hw, andThen_assoc, ← hpage]
    refine h.yields_busWrite (by simp [State.pendingTransaction, hp, hmiss])
      ((sequencerRow_select hp).trans (selectRow_miss hmiss)) fun w' env trace h' => ?_
    exact hk _ _ ⟨⟨h'.bus.trace, rfl, h'.bus.env⟩, h'.holds, h'.done⟩ rfl

/-- The address word is the ADDR row (R142). -/
theorem InFlight.yields_trigger (h : InFlight f old w t) (hp : t.phase = .addr)
    (hk : ∀ w' u, InFlight f old w' u → u.phase = .poll → u.pollCnt = 0 → Yields old post (g () w') (runRows n u)) :
    Yields old post (andThen (w.busWrite .addr (addrWord f.reg (opcodeOf f.dir))) g) (runRows (n + 1) t) := by
  obtain ⟨hdir, -, -, -, hreg⟩ := h.holds
  rw [← hdir, ← hreg]
  refine h.yields_busWrite (k := fun u => { u with pollCnt := 0, phase := .poll }) (by simp [State.pendingTransaction, hp])
    (sequencerRow_addr hp) fun w' env trace h' => ?_
  exact hk _ _ ⟨⟨h'.bus.trace, h'.bus.cache, h'.bus.env⟩, h'.holds, h'.done⟩ rfl rfl

/-- One poll of the loop with k more polls left is a POLL row (R143, R145). -/
theorem InFlight.yields_poll {k : Nat} (h : InFlight f old w t) (hp : t.phase = .poll)
    (hdone : ∀ w' u, InFlight f old w' u → Yields old post (g () w') (runRows n (pollDone u)))
    (hpending : ∀ w' u, InFlight f old w' u → u.phase = .poll → u.pollCnt = t.pollCnt →
      Yields old post (andThen (w'.pollLoop k) g) (runRows n (pollPending u))) :
    Yields old post (andThen (w.pollLoop (k + 1)) g) (runRows (n + 1) t) := by
  rw [World.pollLoop, andThen_assoc]
  refine h.yields_busRead (by simp [State.pendingTransaction, hp]) (sequencerRow_poll hp) fun v w' env trace h' => ?_
  by_cases hv : v &&& Config.pendingMask = 0
  · rw [if_pos hv, if_pos (by simpa [pollComplete] using hv)]
    exact hdone _ _ h'
  · rw [if_neg hv, if_neg (by simpa [pollComplete] using hv)]
    exact hpending _ _ h' hp rfl

/-- The poll loop with polls left is as many POLL rows, the last of which gives up (R143, R146). -/
theorem InFlight.yields_pollLoop (k : Nat) : ∀ {w : World} {t : State}, InFlight f old w t → t.phase = .poll →
    t.pollCnt.toNat + (k + 1) = Config.pollMax →
    (∀ m w' u, n ≤ m → InFlight f old w' u → Yields old post (g () w') (runRows m (pollDone u))) →
    Yields old post (andThen (w.pollLoop (k + 1)) g) (runRows (n + k + 1) t) := by
  induction k with
  | zero =>
    intro w t h hp hcnt hk
    refine h.yields_poll hp (fun w' u => hk n w' u le_rfl) fun w' u hu hup hsame => ?_
    rw [pollPending_last (by rw [hsame]; omega), runRows_idle _ rfl]
    exact ⟨⟨hu.bus.trace, hu.bus.cache, hu.bus.env⟩, rfl, rfl⟩
  | succ k ih =>
    intro w t h hp hcnt hk
    refine h.yields_poll hp (fun w' u => hk _ w' u (by omega)) fun w' u hu hup hsame => ?_
    have hbelow : u.pollCnt.toNat + 1 < Config.pollMax := by rw [hsame]; omega
    rw [pollPending_below hbelow]
    refine ih ⟨⟨hu.bus.trace, hu.bus.cache, hu.bus.env⟩, hu.holds, hu.done⟩ hup ?_ hk
    rw [← hsame] at hcnt
    simp only [Config.pollMax] at hbelow hcnt ⊢
    simp
    omega

/-- run_op is the rows from SELECT on, seven at most (R140). -/
theorem InFlight.yields_runOp (h : InFlight f old w t) (hp : t.phase = .select)
    (hk : ∀ m w' u, n ≤ m → InFlight f old w' u → Yields old post (g () w') (runRows m (pollDone u))) :
    Yields old post (andThen (w.runOp f.page f.reg (opcodeOf f.dir)) g) (runRows (n + 7) t) := by
  rw [World.runOp, andThen_assoc]
  refine h.yields_selectPage hp fun w₁ t₁ h₁ hp₁ => ?_
  rw [andThen_assoc]
  refine h₁.yields_trigger hp₁ fun w₂ t₂ h₂ hp₂ hcnt => ?_
  exact h₂.yields_pollLoop 4 hp₂ (by rw [hcnt]; rfl) hk

/-! ## The drain (R161) -/

/-- A read finished with OK and this value. -/
def ReadReturns (v : Value) (t : State) : Prop :=
  t.finished = true ∧ t.status = .ok ∧ t.rdata = v

/-- The drain of the slots from slot `i` on is as many DRAIN rows, the last of which finishes the read. -/
theorem InFlight.yields_drainSlots (hb : f.byte = false) (k : Nat) : ∀ {i : Nat} {w : World} {t : State},
    InFlight f old w t → t.phase = .drain → t.slotIdx = BitVec.ofNat 3 i → i + k = f.nslot.toNat →
    Yields old ReadReturns (w.drainSlots ((List.range' i (k + 1)).map (BitVec.ofNat 3)) t.acc) (runRows (n + k + 1) t) := by
  induction k with
  | zero =>
    intro i w t h hp hi hk
    obtain ⟨-, hbyte, -⟩ := h.holds
    have hlast : t.slotIdx + 1 = t.nslots := by rw [nslots_toNat h.holds, hi, ← hk, BitVec.ofNat_add]; rfl
    rw [List.range'_succ, List.map_cons, ← hi, World.drainSlots]
    refine h.yields_busRead (by simp [State.pendingTransaction, hp])
      ((sequencerRow_drain hp).trans (drainRow_slot (hbyte.trans hb))) fun v w' env trace h' => ?_
    rw [if_pos (by exact hlast), runRows_idle _ rfl]
    exact ⟨⟨h'.bus.trace, h'.bus.cache, h'.bus.env⟩, rfl, rfl, rfl⟩
  | succ k ih =>
    intro i w t h hp hi hk
    obtain ⟨-, hbyte, -⟩ := h.holds
    have hnext : t.slotIdx + 1 = BitVec.ofNat 3 (i + 1) := by rw [hi, BitVec.ofNat_add]; rfl
    have hmore : t.slotIdx + 1 ≠ t.nslots := by
      have hlt := f.nslot.isLt
      rw [nslots_toNat h.holds, hnext, Ne, ← BitVec.toNat_inj, BitVec.toNat_ofNat, BitVec.toNat_ofNat]
      omega
    rw [List.range'_succ, List.map_cons, ← hi, World.drainSlots]
    refine h.yields_busRead (by simp [State.pendingTransaction, hp])
      ((sequencerRow_drain hp).trans (drainRow_slot (hbyte.trans hb))) fun v w' env trace h' => ?_
    rw [if_neg (by exact hmore)]
    have h'' : InFlight f old w' { t with
        env := env, trace := trace, acc := placeSlot t.acc t.slotIdx v, slotIdx := t.slotIdx + 1 } :=
      ⟨⟨h'.bus.trace, h'.bus.cache, h'.bus.env⟩, h'.holds, h'.done⟩
    exact ih h'' hp hnext (by omega)

/-- The 8-bit drain is the read of slot 0, masked (R163). -/
theorem InFlight.yields_drainByte (hb : f.byte = true) (h : InFlight f old w t) (hp : t.phase = .drain) :
    Yields old (fun v => ReadReturns (v &&& 0xFF)) (w.drainSlots [0] 0) (runRows (n + 1) t) := by
  obtain ⟨-, hbyte, -⟩ := h.holds
  rw [World.drainSlots]
  refine h.yields_busRead (by simp [State.pendingTransaction, hp])
    ((sequencerRow_drain hp).trans (drainRow_byte (hbyte.trans hb))) fun v w' env trace h' => ?_
  rw [runRows_idle _ rfl]
  refine ⟨⟨h'.bus.trace, h'.bus.cache, h'.bus.env⟩, rfl, rfl, ?_⟩
  exact (byteOfSlot_eq_and v).trans (congrArg (· &&& 0xFF) (placeSlot_one v).symm)

/-! ## The whole read (R161) -/

theorem slotsOf_eq_map (n : Width) : slotsOf n = (List.range' 0 n.nslots).map (BitVec.ofNat 3) := by
  cases n <;> rfl

/-- The drain and mask of read_N are the DRAIN rows of its width (R161, R163). -/
theorem InFlight.yields_drain {width : Width} {page : Page} {reg : LReg} {m : Nat}
    (h : InFlight (widthFields width false page reg) old w t) (hp : t.phase = .drain) (hslot : t.slotIdx = 0)
    (hacc : t.acc = 0) (hm : width.nslots ≤ m) :
    Yields old (fun v => ReadReturns (if width = .w8 then v &&& 0xFF else v)) (w.drainSlots (slotsOf width) 0)
      (runRows m t) := by
  obtain ⟨n, rfl⟩ := Nat.exists_eq_add_of_le' hm
  by_cases hw : width = .w8
  · subst hw
    exact h.yields_drainByte rfl hp
  · simp only [if_neg hw]
    have hcount := widthFields_nslot width false page reg
    rw [slotsOf_eq_map, ← hacc, ← hcount]
    exact h.yields_drainSlots (by simpa [widthFields] using hw) _ hp hslot (Nat.zero_add _)

/-- An accept with these answers coming puts the block beside the pseudocode (R151). -/
theorem accept_inFlight {l : List BusRsp} (he : s.env = answered l) :
    InFlight f s.trace ⟨s.cache, l, []⟩ (accept f s) :=
  ⟨⟨by simp, by simp, by simpa using he⟩, accept_stands.carries.holds, by simp⟩

/-- Settles O55: run_op is the rows up to a completing poll, and the drain the rows after it. -/
theorem readRowsAgreeWithPseudocode : Obligations.ReadRowsAgreeWithPseudocode := by
  intro s width page reg l hp he
  have hready : s.cmdReady = true := (cmdReady_iff s).2 ⟨hp, rstAsserted_of_not_mem (by simp [he, answered])⟩
  have h : Yields s.trace ReadReturns (World.readN width page reg ⟨s.cache, l, []⟩)
      (access (widthFields width false page reg) s) := by
    rw [access_ready hready, World.readN]
    refine (accept_inFlight he).yields_runOp (n := 4) (f := widthFields width false page reg) (by simp [widthFields])
      fun m w u hm hu => ?_
    obtain ⟨hdir, -⟩ := hu.holds
    have hslots : width.nslots ≤ 4 := by cases width <;> decide
    rw [pollDone, if_neg (by simp [hdir, widthFields])]
    refine Yields.map (k := fun v => if width = .w8 then v &&& 0xFF else v) ?_
    exact InFlight.yields_drain ⟨⟨hu.bus.trace, hu.bus.cache, hu.bus.env⟩, hu.holds, hu.done⟩ rfl rfl rfl (hslots.trans hm)
  refine ⟨_, exec_command (fields?_read width page reg) s, ?_⟩
  generalize World.readN width page reg ⟨s.cache, l, []⟩ = x at h ⊢
  rcases x with ⟨_ | _ | _ | _, w⟩ <;> exact ⟨h.bus.trace, h.bus.cache, h.bus.env, h.result⟩

end Sys2Proof.Machine
end

section
/-!
The write commands on an environment that answers: the slots in ascending order, then run_op, to the finished write or to the
staging write that fails (R181 to R187) (O29, O30, O31, O32, O33, O34).
-/
namespace Sys2Proof.Machine

variable {f : CmdFields} {s : State} {i : Instr} {staged pend : List BusWord} {x y v : BusWord} {rest : List EnvEvent}

/-! ## A finished write -/

/-- The first of the staging answers is at hand at the accept (R40). -/
theorem cmdReady_of_staged (hp : s.phase = .idle) (hne : staged ≠ []) (he : s.env = oks staged ++ rest) :
    s.cmdReady = true := by
  obtain ⟨a, staged, rfl⟩ := List.exists_cons_of_ne_nil hne
  exact cmdReady_answered hp he

/-- A write that is answered ok throughout (R181). -/
theorem access_write (hd : f.dir = true) (hp : s.phase = .idle) (hlen : staged.length = f.nslot.toNat + 1)
    (hc : CompletesAfter pend v) (he : s.env = oks staged ++ s.runOpAnswers f.page x y pend v ++ rest) :
    access f s = finishWrite { accept f s with
      cache := ⟨true, f.page⟩, phase := .poll, slotIdx := BitVec.ofNat 3 staged.length
      pollCnt := BitVec.ofNat 3 pend.length, sleeps := s.sleeps + pend.length, env := rest
      trace := s.trace ++ stagedTrace s.port.wdata staged.length ++ s.runOpTrace f.page f.reg Config.opWrite pend v } := by
  have hlt := f.nslot.isLt
  have hpend : pend.length < 5 := hc.1
  have henv : s.env = oks staged ++ (s.runOpAnswers f.page x y pend v ++ rest) := by rw [he, List.append_assoc]
  have hne : staged ≠ [] := by rintro rfl; simp at hlen
  have hfuel : Config.maxRows - staged.length = 8 - staged.length - pend.length + (pend.length + 3) := by
    simp only [Config.maxRows]
    omega
  rw [access_staged (cmdReady_of_staged hp hne henv) (by simp [stagedSlots, hd, hlen]) henv, hfuel,
    runRows_runOp (x := x) (y := y) (v := v) (rest := rest) rfl hc
      (by simp [State.runOpAnswers, State.selectAnswer]),
    pollDone, if_pos (by simp [hd]), runRows_idle _ rfl]
  simp [hd, State.runOpTrace, State.selectTrace, opcodeOf]

/-- The staging writes by the bits of the value they carry (R114): a slot number has three bits. -/
theorem stagedTrace_eq_extract (value : Value) {n : Nat} (hn : n ≤ 8) :
    stagedTrace value n = (List.range n).map fun k => .w (.data (BitVec.ofNat 3 k)) (value.extractLsb' (16 * k) 16) := by
  refine List.map_congr_left fun k hk => ?_
  have hk : k < 8 := (List.mem_range.1 hk).trans_le hn
  rw [slotWord_eq_extract, BitVec.toNat_ofNat, Nat.mod_eq_of_lt hk]

/-- What a write command that is answered ok throughout leaves (R181, R30). -/
theorem exec_write (hi : i.fields? = some f) (hd : f.dir = true) (hlen : staged.length = f.nslot.toNat + 1)
    (hp : s.phase = .idle) (hc : CompletesAfter pend v)
    (he : s.env = oks staged ++ s.runOpAnswers f.page x y pend v ++ rest) :
    ∃ t, exec i s = .next t ∧ s.finishedFrom t f .ok ∧ t.lWdata = s.port.wdata ∧ t.cache = ⟨true, f.page⟩ ∧ t.env = rest ∧
      t.trace = s.trace ++ (List.range staged.length).map (fun k =>
        .w (.data (BitVec.ofNat 3 k)) (s.port.wdata.extractLsb' (16 * k) 16))
        ++ s.runOpTrace f.page f.reg 0x0001#16 pend v ∧
      t.slotIdx = BitVec.ofNat 3 staged.length ∧ t.pollCnt.toNat = pend.length ∧ t.sleeps = s.sleeps + pend.length := by
  have hlt := f.nslot.isLt
  have hpend : pend.length < 5 := hc.1
  refine ⟨_, (exec_command hi s).trans (congrArg _ (access_write hd hp hlen hc he)), ?_⟩
  refine ⟨by simp [State.finishedFrom, State.holds], by simp [hd], rfl, rfl, ?_, rfl, ?_, rfl⟩
  · rw [← stagedTrace_eq_extract _ (by omega)]
    rfl
  · simp
    omega

/-- Settles O29: write8 is a write of one slot, whose word is staged whole. -/
theorem write8Result : Obligations.Write8Result :=
  fun _ page reg a0 _ _ _ _ _ hp hc he => exec_write (i := .write8 page reg) (staged := [a0]) rfl rfl rfl hp hc he

/-- Settles O30: write16 is a write of one slot. -/
theorem write16Result : Obligations.Write16Result :=
  fun _ page reg a0 _ _ _ _ _ hp hc he => exec_write (i := .write16 page reg) (staged := [a0]) rfl rfl rfl hp hc he

/-- Settles O31: write32 is a write of two slots. -/
theorem write32Result : Obligations.Write32Result :=
  fun _ page reg a0 a1 _ _ _ _ _ hp hc he =>
    exec_write (i := .write32 page reg) (staged := [a0, a1]) rfl rfl rfl hp hc he

/-- Settles O32: write48 is a write of three slots. -/
theorem write48Result : Obligations.Write48Result :=
  fun _ page reg a0 a1 a2 _ _ _ _ _ hp hc he =>
    exec_write (i := .write48 page reg) (staged := [a0, a1, a2]) rfl rfl rfl hp hc he

/-- Settles O33: write64 is a write of four slots. -/
theorem write64Result : Obligations.Write64Result :=
  fun _ page reg a0 a1 a2 a3 _ _ _ _ _ hp hc he =>
    exec_write (i := .write64 page reg) (staged := [a0, a1, a2, a3]) rfl rfl rfl hp hc he

/-! ## A staging write that fails -/

/-- The access of a write `f` accepted in `s` after the staging of `j` slots: in STAGE, before the next slot. -/
def State.stagingWrite (s : State) (f : CmdFields) (j : Nat) (rest : List EnvEvent) : State :=
  { accept f s with
    slotIdx := BitVec.ofNat 3 j, trace := s.trace ++ stagedTrace s.port.wdata j, env := rest }

/-- The slots below the last one are staged in their order (R181). -/
theorem runRows_stagingWrite (hd : f.dir = true) (staged : List BusWord) : ∀ {n j : Nat},
    j + staged.length ≤ f.nslot.toNat →
    runRows (n + staged.length) (s.stagingWrite f j (oks staged ++ rest)) =
      runRows n (s.stagingWrite f (j + staged.length) rest) := by
  induction staged with
  | nil => intro n j _; rfl
  | cons w staged ih =>
    intro n j hle
    have hlt := f.nslot.isLt
    rw [List.length_cons] at hle ⊢
    have hmore : (s.stagingWrite f j (oks (w :: staged) ++ rest)).slotIdx + 1 ≠
        (s.stagingWrite f j (oks (w :: staged) ++ rest)).nslots := by
      rw [Ne, ← BitVec.toNat_inj, toNat_nslots]
      simp [State.stagingWrite]
      omega
    have hrow : runRows (n + (staged.length + 1)) (s.stagingWrite f j (oks (w :: staged) ++ rest)) =
        runRows (n + staged.length) (s.stagingWrite f (j + 1) (oks staged ++ rest)) := by
      rw [← Nat.add_assoc, runRows_stage (by simp [State.stagingWrite, hd]) rfl, if_neg hmore]
      simp [State.stagingWrite, accept, hd, stagedTrace_succ, BitVec.ofNat_add, oks]
    rw [hrow, ih (by omega), Nat.add_assoc, Nat.add_comm 1]

/-- In STAGE a slot write answered err ends the write (R182). -/
theorem runRows_stage_err {n : Nat} {e : ErrT} (hp : s.phase = .stage) (he : s.env = .rsp (.err e) :: rest) :
    runRows (n + 1) s = raise (.transport e) { s with
      env := rest, trace := s.trace ++ [.wErr (.data s.slotIdx) (slotWord s.lWdata s.slotIdx) e] } := by
  rw [runRows_row _ (by simp [hp]) (waiting_answered he), sequencerRow_stage hp, stageRow, busWrite_err he,
    runRows_idle _ rfl]

/-- A write whose first staging writes are answered ok and the next one err (R182). -/
theorem access_staging_err {e : ErrT} (hd : f.dir = true) (hp : s.phase = .idle) (hle : staged.length ≤ f.nslot.toNat)
    (he : s.env = oks staged ++ .rsp (.err e) :: rest) :
    access f s = raise (.transport e) { s.stagingWrite f staged.length rest with
      trace := s.trace ++ stagedTrace s.port.wdata staged.length ++
        [.wErr (.data (BitVec.ofNat 3 staged.length)) (s.port.wdata.extractLsb' (16 * staged.length) 16) e] } := by
  have hlt := f.nslot.isLt
  have hready : s.cmdReady = true := by
    cases staged <;> exact cmdReady_answered hp he
  have hstart : accept f s = s.stagingWrite f 0 (oks staged ++ .rsp (.err e) :: rest) := by
    simp [State.stagingWrite, accept, ← he]
  have hfuel : Config.maxRows = 10 - staged.length + 1 + staged.length := by simp only [Config.maxRows]; omega
  rw [access_ready hready, hstart, hfuel, runRows_stagingWrite hd staged (by omega), Nat.zero_add,
    runRows_stage_err (by simp [State.stagingWrite, hd]) rfl]
  have hindex : staged.length % 8 = staged.length := Nat.mod_eq_of_lt (by omega)
  simp [State.stagingWrite, hd, slotWord_eq_extract, hindex]

/-- Settles O34: the writes before it succeed, and the failed one raises TransportError, which keeps everything else named. -/
theorem stagingFailureAbortsBeforeTrigger : Obligations.StagingFailureAbortsBeforeTrigger := by
  intro s i f staged e rest hi hd hp hle he
  have hlt := f.nslot.isLt
  refine ⟨_, stagedTrace s.port.wdata staged.length,
    (exec_command hi s).trans (congrArg _ (access_staging_err hd hp hle he)), ?_⟩
  refine ⟨by simp [State.finishedFrom, State.holds, State.stagingWrite, ErrorKind.status], rfl, ?_, rfl, ?_, ?_, ?_, ?_, rfl⟩
  · simp [State.stagingWrite]
  · simp [State.stagingWrite]
    omega
  · simp [State.stagingWrite]
  · simp [stagedTrace]
  · simp [stagedTrace_eq_extract _ (show staged.length ≤ 8 by omega)]

end Sys2Proof.Machine
end

section
/-!
The rows of R150 against the pseudocode of R181 (R151): the staging loop of write_N is the STAGE rows, and its run_op the rows up
to the completing poll that finishes the write (O56).
-/
namespace Sys2Proof.Machine

variable {f : CmdFields} {old : List BusEvent} {w : World} {t : State} {n : Nat}
variable {β : Type} {post : β → State → Prop} {g : Unit → World → Result β × World}

/-- R15: a sub-operation whose result is returned as it is. -/
theorem andThen_ok {α : Type} (x : Result α × World) : andThen x (fun a u => (.ok a, u)) = x := by
  rcases x with ⟨_ | _ | _ | _, u⟩ <;> rfl

/-- The staging of one slot is a STAGE row (R181). -/
theorem InFlight.yields_stage {slots : List (BitVec 3)} (h : InFlight f old w t) (hp : t.phase = .stage)
    (hk : ∀ w' u, InFlight f old w' u → u.lWdata = t.lWdata → u.slotIdx = t.slotIdx + 1 →
      u.phase = (if t.slotIdx + 1 = t.nslots then .select else .stage) →
      Yields old post (andThen (w'.stageSlots t.lWdata slots) g) (runRows n u)) :
    Yields old post (andThen (w.stageSlots t.lWdata (t.slotIdx :: slots)) g) (runRows (n + 1) t) := by
  rw [World.stageSlots, andThen_assoc]
  refine h.yields_busWrite (by simp [State.pendingTransaction, hp]) (sequencerRow_stage hp) fun w' env trace h' => ?_
  exact hk _ _ ⟨⟨h'.bus.trace, h'.bus.cache, h'.bus.env⟩, h'.holds, h'.done⟩ rfl rfl rfl

/-- The staging of the slots from slot `i` on is as many STAGE rows, the last of which goes on to SELECT (R181). -/
theorem InFlight.yields_stageSlots
    (hk : ∀ w' u, InFlight f old w' u → u.phase = .select → Yields old post (g () w') (runRows n u)) (k : Nat) :
    ∀ {i : Nat} {w : World} {t : State}, InFlight f old w t → t.phase = .stage → t.slotIdx = BitVec.ofNat 3 i →
    i + k = f.nslot.toNat →
    Yields old post (andThen (w.stageSlots t.lWdata ((List.range' i (k + 1)).map (BitVec.ofNat 3))) g)
      (runRows (n + k + 1) t) := by
  induction k with
  | zero =>
    intro i w t h hp hi hsum
    have hlast : t.slotIdx + 1 = t.nslots := by rw [nslots_toNat h.holds, hi, ← hsum, BitVec.ofNat_add]; rfl
    rw [List.range'_succ, List.map_cons, ← hi]
    refine h.yields_stage hp fun w' u hu _ _ hup => ?_
    exact hk w' u hu (hup.trans (if_pos hlast))
  | succ k ih =>
    intro i w t h hp hi hsum
    have hnext : t.slotIdx + 1 = BitVec.ofNat 3 (i + 1) := by rw [hi, BitVec.ofNat_add]; rfl
    have hmore : t.slotIdx + 1 ≠ t.nslots := by
      have hlt := f.nslot.isLt
      rw [nslots_toNat h.holds, hnext, Ne, ← BitVec.toNat_inj, BitVec.toNat_ofNat, BitVec.toNat_ofNat]
      omega
    rw [List.range'_succ, List.map_cons, ← hi]
    refine h.yields_stage hp fun w' u hu hdata hui hup => ?_
    rw [← hdata]
    exact ih hu (hup.trans (if_neg hmore)) (hui.trans hnext) (by omega)

/-- A write finished with OK. -/
def WriteReturns (_ : Unit) (t : State) : Prop :=
  t.finished = true ∧ t.status = .ok

/-- write_N is the rows from STAGE on, eleven at most (R181). -/
theorem InFlight.yields_writeN {width : Width} {page : Page} {reg : LReg}
    (h : InFlight (widthFields width true page reg) old w t) (hp : t.phase = .stage) (hslot : t.slotIdx = 0) :
    Yields old WriteReturns (w.writeN width page reg t.lWdata) (runRows Config.maxRows t) := by
  have hcount := widthFields_nslot width true page reg
  have hslots : width.nslots ≤ 4 := by cases width <;> decide
  have hfuel : Config.maxRows = 4 - width.nslots + 7 + (widthFields width true page reg).nslot.toNat + 1 := by
    simp only [Config.maxRows]
    omega
  rw [World.writeN, slotsOf_eq_map, ← hcount, hfuel]
  refine InFlight.yields_stageSlots (fun w₁ t₁ h₁ hp₁ => ?_) _ h hp hslot (Nat.zero_add _)
  rw [← andThen_ok (w₁.runOp page reg Config.opWrite)]
  refine h₁.yields_runOp hp₁ fun m w₂ t₂ _ h₂ => ?_
  have hdir : t₂.lDir = true := h₂.holds.1
  rw [pollDone, if_pos hdir, runRows_idle m rfl]
  exact ⟨⟨h₂.bus.trace, h₂.bus.cache, h₂.bus.env⟩, rfl, rfl⟩

/-- Settles O56: the staging loop is the rows up to SELECT, and run_op the rows after it. -/
theorem writeRowsAgreeWithPseudocode : Obligations.WriteRowsAgreeWithPseudocode := by
  intro s width page reg l hp he
  have hready : s.cmdReady = true := (cmdReady_iff s).2 ⟨hp, rstAsserted_of_not_mem (by simp [he, answered])⟩
  have h := (accept_inFlight (f := widthFields width true page reg) he).yields_writeN (by simp [widthFields])
    (accept_slotIdx _ s)
  have hwdata : (accept (widthFields width true page reg) s).lWdata = s.port.wdata := by simp [widthFields]
  rw [hwdata, ← access_ready hready] at h
  refine ⟨_, exec_command (fields?_write width page reg) s, ?_⟩
  generalize World.writeN width page reg s.port.wdata ⟨s.cache, l, []⟩ = x at h ⊢
  rcases x with ⟨_ | _ | _ | _, w⟩ <;> exact ⟨h.bus.trace, h.bus.cache, h.bus.env, h.result⟩

end Sys2Proof.Machine
end

section
/-!
The dispatch of the command port as seen by the host: with `cmd_ready` the step is the instruction presented there (R40, R201)
(O7).
-/
namespace Sys2Proof.Machine

/-- Settles O7: ready is IDLE without `rst` (R40), where the step and the instruction are both the access of its fields (R201). -/
theorem stepRunsPresentedCommand : Obligations.StepRunsPresentedCommand := by
  intro s i hready hvalid hdecode
  obtain ⟨hidle, hrst⟩ := (cmdReady_iff s).1 hready
  obtain ⟨f, hfields, hstep⟩ := step_presented hrst hidle hvalid hdecode
  have hexec : exec i s = .next (access f s) := exec_command hfields s
  exact hstep.trans hexec.symm

end Sys2Proof.Machine
end

section
/-!
What the transactions of a finished command say of its STATUS: after OK nothing failed and everything was exchanged (R233) (O40),
after TRANSPORT the failing transaction is the last (R221, R230) (O41).
-/
namespace Sys2Proof.Machine

variable {f : CmdFields} {s t : State}

/-! ## An access that ended with OK -/

/-- The reads of a drain hold every slot's word. -/
theorem mem_drainedTrace {words : List BusWord} {k : BitVec 3} (hk : k.toNat < words.length) :
    .r (.data k) words[k.toNat] ∈ drainedTrace words :=
  List.mem_mapIdx.2 ⟨k.toNat, hk, by rw [BitVec.ofNat_toNat, BitVec.setWidth_eq]⟩

/-- A write exchanged its slots while staging, a read while draining. -/
theorem EndsOk.exchanges {pend : List BusWord} {v : BusWord} {words : List BusWord} (h : EndsOk f s t pend v words)
    {k : BitVec 3} (hk : k.toNat < f.nslot.toNat + 1) :
    ∃ w, (if f.dir = true then BusEvent.w (.data k) w else .r (.data k) w) ∈ Site.trace f s (.drain pend v words) := by
  have hcount := h.count
  cases hdir : f.dir with
  | true =>
    have hlt : k.toNat < stagedSlots f := by simpa [stagedSlots, hdir] using hk
    obtain ⟨w, hw⟩ : ∃ w, .w (.data k) w ∈ stagedTrace s.port.wdata (stagedSlots f) := ⟨_, mem_stagedTrace hlt⟩
    exact ⟨w, by simp [Site.trace, hw]⟩
  | false =>
    have hlt : k.toNat < words.length := by simpa [hcount, hdir] using hk
    exact ⟨words[k.toNat], List.mem_append_right _ (mem_drainedTrace hlt)⟩

/-- Settles O40: only the OK ending has that status, and its trace is that of a full access with a completing poll (R233). -/
theorem successMeansEverythingAnswered : Obligations.SuccessMeansEverythingAnswered := by
  intro s i f hf hready
  obtain ⟨t, hexec, hend⟩ := exec_endings hf hready
  obtain ⟨new, htrace, -⟩ := hend.accessTrace
  refine ⟨t, new, hexec, htrace, fun hfin hstatus => ?_⟩
  obtain ⟨pend, v, words, h⟩ := hend.endsOk hfin hstatus
  obtain rfl := List.append_cancel_left (htrace.symm.trans h.trace)
  obtain ⟨-, -, hcompletes⟩ := h.completes
  exact ⟨fun _ => not_failed_of_mem_trace, ⟨.r .addr v, by simp [Site.trace], hcompletes⟩, fun _ => h.exchanges⟩

/-! ## An access that ended with a transport error -/

/-- The only way for an access to finish with TRANSPORT. -/
theorem Ending.endsInError (h : Ending f s t) (hf : t.finished = true) (hs : t.status = .transport) :
    ∃ site e, EndsInError f s site e t := by
  obtain ⟨-, hdone⟩ : t.phase = .idle ∧ t.done = true := by simpa [State.finished] using hf
  cases h with
  | stands site h => simp [h.done] at hdone
  | ok pend v words h => simp [h.status] at hs
  | transport site e h => exact ⟨site, e, h⟩
  | timeout pend h => simp [h.status] at hs
  | reset site h => simp [h.done] at hdone

/-- What fails at a site is one bus write or one bus read, and its error is kept verbatim. -/
theorem failure_eq_wErr_or_rErr (f : CmdFields) (s : State) (e : ErrT) (site : Site) :
    ∃ r v, site.failure f s e = .wErr r v e ∨ site.failure f s e = .rErr r e := by
  cases site with
  | stage | select | addr => exact ⟨_, _, .inl rfl⟩
  | poll | drain => exact ⟨_, 0, .inr rfl⟩

/-- Settles O41: a transport error ends the access at the site whose transaction failed (R221), with that error in ERR_INFO
(R230). -/
theorem transportErrorIsTheLastTransaction : Obligations.TransportErrorIsTheLastTransaction := by
  intro s i f hf hready
  obtain ⟨t, hexec, hend⟩ := exec_endings hf hready
  obtain ⟨new, htrace, -⟩ := hend.accessTrace
  refine ⟨t, new, hexec, htrace, fun hfin hstatus => ?_⟩
  obtain ⟨site, e, h⟩ := hend.endsInError hfin hstatus
  obtain rfl := List.append_cancel_left (htrace.symm.trans (h.trace.trans (List.append_assoc ..)))
  obtain rfl : t.errInfo = e := h.errInfo
  obtain ⟨r, v, hfailure⟩ := failure_eq_wErr_or_rErr f s t.errInfo site
  refine ⟨site.trace f s, r, v, ?_, fun _ => not_failed_of_mem_trace⟩
  simpa using hfailure

end Sys2Proof.Machine
end

section
/-!
Reset (R48, R260) met in any phase (O49), and met by a command's access (R263): each transaction takes one answer, and the row
that finds `rst` where its answer should be abandons the access (O50).
-/
namespace Sys2Proof.Machine

variable {s t : State} {l : List BusRsp} {rest : List EnvEvent} {new : List BusEvent}

/-! ## What reset leaves (R48) -/

/-- The registers that R48's table gives a value hold it. -/
structure State.IsReset (t : State) : Prop where
  cache : t.cache = ⟨false, 0xFF⟩
  phase : t.phase = .idle
  slotIdx : t.slotIdx = 0
  pollCnt : t.pollCnt = 0
  status : t.status = .ok
  done : t.done = false

theorem resetRegisters_isReset (s : State) : (resetRegisters s).IsReset :=
  ⟨rfl, rfl, rfl, rfl, rfl, rfl⟩

theorem rstAsserted_rst (he : s.env = .rst :: rest) : s.rstAsserted = true := by
  simp [State.rstAsserted, he]

theorem takeReset_rst (he : s.env = .rst :: rest) : takeReset s = resetRegisters { s with env := rest } := by
  simp [takeReset, he]

/-- Settles O49: a step with `rst` asserted is reset, whatever the phase (R260). -/
theorem resetTakesEffectInAnyPhase : Obligations.ResetTakesEffectInAnyPhase := by
  intro s rest he
  have hstep : step s = .next (resetRegisters { s with env := rest }) :=
    takeReset_rst he ▸ step_rstAsserted (rstAsserted_rst he)
  obtain ⟨hcache, hphase, hslot, hpoll, hstatus, hdone⟩ := resetRegisters_isReset { s with env := rest }
  exact ⟨_, hstep, hcache, hphase, hslot, hpoll, hstatus, hdone, rfl, rfl, rfl, rfl⟩

/-! ## A run of rows that `rst` follows (R263) -/

/-- The access finished in `t` on some of the answers `l`, one for each of its transactions `new`; `rst` is not met. -/
structure FinishedBeforeReset (l : List BusRsp) (rest : List EnvEvent) (new : List BusEvent) (t : State) : Prop where
  finished : t.finished = true
  length_le : new.length ≤ l.length
  rst_not_mem : .rst ∉ new
  env : t.env = answered (l.drop new.length) ++ .rst :: rest

/-- The access took all the answers `l`, one for each of its transactions `before`, and `rst` abandoned it. -/
structure AbandonedAtReset (l : List BusRsp) (rest : List EnvEvent) (before : List BusEvent) (t : State) : Prop where
  isReset : t.IsReset
  length_eq : before.length = l.length
  rst_not_mem : .rst ∉ before
  env : t.env = rest

/-- What becomes of an access with the answers `l` and then `rst` to come, its bus events from here on being `new`. -/
inductive ResetOutcome (l : List BusRsp) (rest : List EnvEvent) (new : List BusEvent) (t : State) : Prop where
  | finished (h : FinishedBeforeReset l rest new t)
  | abandoned (before : List BusEvent) (hnew : new = before ++ [.rst]) (h : AbandonedAtReset l rest before t)

/-- One more transaction before these takes one more answer. -/
theorem ResetOutcome.cons {e : BusEvent} (he : e ≠ .rst) (a : BusRsp) (h : ResetOutcome l rest new t) :
    ResetOutcome (a :: l) rest (e :: new) t := by
  have hmem {es : List BusEvent} (hes : .rst ∉ es) : .rst ∉ e :: es := List.not_mem_cons_of_ne_of_not_mem he.symm hes
  cases h with
  | finished h => exact .finished ⟨h.finished, Nat.succ_le_succ h.length_le, hmem h.rst_not_mem, h.env⟩
  | abandoned before hnew h =>
    exact .abandoned (e :: before) (congrArg _ hnew) ⟨h.isReset, congrArg _ h.length_eq, hmem h.rst_not_mem, h.env⟩

theorem event_ne_rst (x : Transaction) (a : BusRsp) : x.event a ≠ .rst := by
  cases x <;> cases a <;> exact nofun

/-- An answer, or `rst` in its place, is always at hand. -/
theorem waiting_answered_rst (he : s.env = answered l ++ .rst :: rest) : s.waiting = false := by
  cases l with
  | nil => simp [State.waiting, show s.env = .rst :: rest from he]
  | cons a l => exact waiting_answered (by exact he)

/-- From `s`, with the answers `l` and then `rst` to come, the access came to `t`. -/
def MeetsReset (l : List BusRsp) (rest : List EnvEvent) (s t : State) : Prop :=
  ∃ new, t.trace = s.trace ++ new ∧ ResetOutcome l rest new t

/-- A finished access takes no answer and does not meet `rst`. -/
theorem meetsReset_of_finished (hf : s.finished = true) (he : s.env = answered l ++ .rst :: rest) :
    MeetsReset l rest s s :=
  ⟨[], by simp, .finished ⟨hf, Nat.zero_le _, by simp, he⟩⟩

/-- `rst` in the place of the first answer abandons the access. -/
theorem meetsReset_of_resetRegisters (s : State) : MeetsReset [] rest s (resetRegisters { s with env := rest }) :=
  ⟨[.rst], rfl, .abandoned [] rfl ⟨resetRegisters_isReset _, rfl, by simp, rfl⟩⟩

/-- A run of as many rows as the access can need takes it to its finish, or to the `rst` that follows the answers. -/
theorem runRows_meetsReset (n : Nat) : ∀ {s : State} {l : List BusRsp}, s.RegInv → (s.phase = .idle → s.done = true) →
    s.env = answered l ++ .rst :: rest → s.rowsLeft ≤ n → MeetsReset l rest s (runRows n s) := by
  have hover {m : Nat} {s : State} {l : List BusRsp} (hi : s.phase = .idle) (hfin : s.phase = .idle → s.done = true)
      (he : s.env = answered l ++ .rst :: rest) : MeetsReset l rest s (runRows m s) := by
    rw [runRows_idle m hi]
    exact meetsReset_of_finished (by simp [State.finished, hi, hfin hi]) he
  induction n with
  | zero =>
    intro s l hinv hfin he hn
    exact hover (hinv.idle_of_rowsLeft hn) hfin he
  | succ n ih =>
    intro s l hinv hfin he hn
    by_cases hp : s.phase = .idle
    · exact hover hp hfin he
    rw [runRows_row n hp (waiting_answered_rst he)]
    have hinv' := sequencerRow_regInv s hinv
    cases hx : s.pendingTransaction with
    | none =>
      obtain ⟨hsel, hrow⟩ := sequencerRow_of_no_pending hp hx
      have hlt := rowsLeft_hit hsel
      rw [hrow] at hinv' ⊢
      exact ih hinv' (by simp) he (by omega)
    | some x =>
      cases l with
      | nil =>
        rw [sequencerRow_rst (by exact he) (by simp [hx]), runRows_idle n rfl]
        exact meetsReset_of_resetRegisters s
      | cons a l =>
        obtain ⟨t, ht⟩ := sequencerRow_answered hx a
        have hlt : t.rowsLeft < s.rowsLeft := ht.advances.rowsLeft hinv
        have he' : s.env = .rsp a :: (answered l ++ .rst :: rest) := he
        rw [ht.sequencerRow_eq he'] at hinv' ⊢
        obtain ⟨new, htrace, hout⟩ := ih hinv' ht.advances.finishes rfl (Nat.le_of_lt_succ (hlt.trans_le hn))
        exact ⟨x.event a :: new, htrace.trans (List.append_assoc ..), hout.cons (event_ne_rst x a) a⟩

/-- Settles O50: eleven rows are enough to take the access to its finish or to the `rst` that abandons it (R263). -/
theorem resetAbandonsAccess : Obligations.ResetAbandonsAccess := by
  intro s i f l rest hf hp he hl
  have hready : s.cmdReady = true := by
    obtain ⟨a, l, rfl⟩ := List.exists_cons_of_ne_nil hl
    exact cmdReady_answered hp (by exact he)
  have hrun : MeetsReset l rest (accept f s) (access f s) := by
    rw [access_ready hready]
    exact runRows_meetsReset Config.maxRows (accept_regInv (legal_of_fields hf) s)
      (by cases hd : f.dir <;> simp [hd]) (by simpa using he) (rowsLeft_le _)
  obtain ⟨new, htrace, hout⟩ := hrun
  rw [accept_trace] at htrace
  refine ⟨access f s, new, exec_command hf s, htrace, ?_⟩
  cases hout with
  | finished h => exact .inl ⟨h.finished, h.length_le, h.rst_not_mem, h.env⟩
  | abandoned before hnew h =>
    obtain ⟨hcache, hphase, hslot, hpoll, hstatus, hdone⟩ := h.isReset
    exact .inr ⟨hphase, hdone, hcache, hstatus, hslot, hpoll, h.env, before, hnew, h.length_eq, h.rst_not_mem⟩

end Sys2Proof.Machine
end

section
/-!
Words the spec's vectors print for instructions (95_test_vectors.md section 3) (O3).
-/
namespace Sys2Proof.Machine

/-- Settles O3: each printed word is the encoding of its instruction, and the decoder reads an instruction from its
encoding. -/
theorem specVectorsDecode : Obligations.SpecVectorsDecode := by
  unfold Obligations.SpecVectorsDecode
  simp only [decode_eq_ok_iff]
  exact ⟨rfl, rfl, rfl, rfl, rfl, rfl, rfl⟩

end Sys2Proof.Machine
end
